-- ==== Sys2Proof/Word.lean ====
section
/-! DEFINITION. The block's word types (spec/00_scope.md R8, R9): nothing is signed, bits are numbered from 0,
the least significant. One-bit registers and ports are `Bool`, `true` for 1 and `false` for 0. -/

namespace Sys2Proof

/-- A 32-bit unsigned word: payload, overall timeout, accumulator (R8). -/
abbrev Word := BitVec 32

/-- The 40-bit command word `cmd_word[39:0]` (spec/30_encoding.md R70). -/
abbrev CmdWord := BitVec 40

/-- The logic level of the line at the pad (spec/10_state.md R20, R22): `true` is 1. -/
abbrev Level := Bool

end Sys2Proof
end

