-- ==== Sys2Proof/Config.lean ====
section
/-! DEFINITION. What is fixed when the block is built (spec/00_scope.md R7), the input ports' values at one edge
(spec/10_state.md R20) and the free values: constants without a body, of which nothing can be proved. -/

namespace Sys2Proof

/-- A timing window: the closed interval `[min, max]` of duration counts (spec/41_timing_windows.md R120). -/
structure Window where
  min : Nat
  max : Nat
  deriving DecidableEq, Repr

/-- The configuration record of spec/00_scope.md R7, parameter by parameter in the table's order. The spec leaves every
one of them open (spec/92_eei_decisions.md D11): the record is data of the state and no step changes it. -/
structure Config where
  /-- `ACTIVE_LEVEL`: the line sample that means mark. -/
  activeLevel   : Level
  /-- `TX_ON_LEVEL`: the level driven in the ON half of a carrier pulse. -/
  txOnLevel     : Level
  /-- `SYNC_STAGES`: synchroniser flip-flops, 0 allowed. -/
  syncStages    : Nat
  /-- `CNT_W`: the width of `cnt`. -/
  cntW          : Nat
  wLfHdrMark    : Window
  wLfHdrSpace   : Window
  wLfRptSpace   : Window
  wLfSpace0     : Window
  wLfSpace1     : Window
  wVfHdrMark    : Window
  wVfHdrSpace   : Window
  wVfMark0      : Window
  wVfMark1      : Window
  symLimit      : Nat
  vfBlkTo1      : Nat
  vfBlkTo2      : Nat
  lfH           : Nat
  lfHdrPulses   : Nat
  lfHdrGap      : Nat
  lfBitPulses   : Nat
  lfGap0        : Nat
  lfGap1        : Nat
  lfTrailPulses : Nat
  vfH           : Nat
  vfHdrPulses   : Nat
  vfHdrGap      : Nat
  vfPulses0     : Nat
  vfPulses1     : Nat
  vfGap         : Nat
  deriving DecidableEq, Repr

/-- The spec's example configuration EX (spec/95_test_vectors.md section 0). DESIGN CHOICE (log 1): `State.reset` carries
it because a state must carry some configuration; no statement rests on its values. -/
def Config.ex : Config where
  activeLevel := false
  txOnLevel := true
  syncStages := 0
  cntW := 8
  wLfHdrMark := ⟨80, 100⟩
  wLfHdrSpace := ⟨40, 50⟩
  wLfRptSpace := ⟨20, 25⟩
  wLfSpace0 := ⟨4, 7⟩
  wLfSpace1 := ⟨14, 18⟩
  wVfHdrMark := ⟨20, 28⟩
  wVfHdrSpace := ⟨4, 7⟩
  wVfMark0 := ⟨4, 7⟩
  wVfMark1 := ⟨10, 14⟩
  symLimit := 120
  vfBlkTo1 := 12
  vfBlkTo2 := 12
  lfH := 1
  lfHdrPulses := 45
  lfHdrGap := 44
  lfBitPulses := 3
  lfGap0 := 4
  lfGap1 := 15
  lfTrailPulses := 3
  vfH := 1
  vfHdrPulses := 12
  vfHdrGap := 5
  vfPulses0 := 3
  vfPulses1 := 6
  vfGap := 5

/-- The values of the block's input ports at one rising edge (spec/10_state.md R20); `clk` is the edge itself. -/
structure InPorts where
  rst      : Bool
  cmdValid : Bool
  cmdWord  : CmdWord
  lineIn   : Level
  deriving DecidableEq, Repr, Inhabited

/-- FREE VALUE (log 2): what the host and the line environment put on the input ports at edge `n`, where the state does
not write it down. spec/00_scope.md R5: the model takes the host's command signals and the line value as draws. -/
opaque Config.freePorts : Nat → InPorts

/-- FREE VALUE (log 4): stage `j` of the synchroniser in the reset state; spec/93_implementation_defined.md I3 makes
the stages free bits, drawn at the start. -/
opaque Config.freeSync : Nat → Level

end Sys2Proof
end

