-- ==== Sys2Proof/Syntax.lean ====
section
/-! DEFINITION. The commands (spec/30_encoding.md R78: the six rows of spec/opcode_table.json) and the enumerations the
encoding uses (R71, R75, R76). Their binary codes stand in Decode.lean. -/

namespace Sys2Proof

/-- The operation field `op` (spec/30_encoding.md R71); `done_op` uses the same values (R77). -/
inductive Op where
  | nop
  | transmit
  | decode
  | reserved
  deriving DecidableEq, Repr

/-- The two protocol families (spec/00_scope.md R2, spec/30_encoding.md R75). -/
inductive Protocol where
  | longFrame
  | variableFrame
  deriving DecidableEq, Repr

/-- The outcome held in `res_outcome` (spec/30_encoding.md R76); `none` is NONE: no decode result. -/
inductive ResOutcome where
  | none
  | success
  | timeout
  | protocolError
  deriving DecidableEq, Repr

/-- A decoded command: one constructor per row of the opcode table, with the part of `arg` that the command latches
(spec/30_encoding.md R73). Fields that a command ignores (R74) are dropped by the decoder; `decInf` keeps `arg` because
spec/43_decoder.md R160 latches it into `tmo` although no rule then reads it. -/
inductive Instr where
  /-- `NOP` (spec/40_commands.md R102). -/
  | nop
  /-- `TX.LF payload` (spec/42_encoder.md R146). -/
  | txLf (payload : Word)
  /-- `TX.VF payload` (spec/42_encoder.md R147). -/
  | txVf (payload : Word)
  /-- `DEC timeout` (spec/43_decoder.md R190). -/
  | dec (timeout : Word)
  /-- `DEC.INF` (spec/43_decoder.md R191). -/
  | decInf (arg : Word)
  /-- `RSVD` (spec/40_commands.md R103). -/
  | rsvd
  deriving DecidableEq, Repr

end Sys2Proof
end

