-- ==== Sys2Proof/Machine/Waveform.lean ====
section
/-! DEFINITION. The encoder's waveform as a function of configuration, protocol and payload, its length, and the ideal
envelope used by loopback statements (spec/42_encoder.md R140 to R143, R149). -/

namespace Sys2Proof

/-- Bit `i` of a payload, least significant first on the line (spec/20_memory.md R52). -/
def payloadBit (p : Word) (i : Nat) : Bool := p.getLsbD i

/-- `n` cycles at the ON level (spec/00_scope.md R11). -/
def Config.on (c : Config) (n : Nat) : List Level := List.replicate n c.txOnLevel

/-- `n` cycles at the OFF level: a gap of `n` cycles (spec/42_encoder.md R140). -/
def Config.off (c : Config) (n : Nat) : List Level := List.replicate n (!c.txOnLevel)

/-- `burst(n, h) = (ON^h OFF^h)^n` (spec/42_encoder.md R140). -/
def Config.burst (c : Config) (n h : Nat) : List Level := (List.replicate n (c.on h ++ c.off h)).flatten

/-- The gap after LongFrame bit `b` (spec/42_encoder.md R141). -/
def Config.lfGap (c : Config) (b : Bool) : Nat := if b then c.lfGap1 else c.lfGap0

/-- The pulse count of VariableFrame bit `b` (spec/42_encoder.md R142). -/
def Config.vfPulses (c : Config) (b : Bool) : Nat := if b then c.vfPulses1 else c.vfPulses0

/-- One LongFrame data bit: a burst of fixed length, then the gap that carries the bit (spec/42_encoder.md R141). -/
def Config.lfBit (c : Config) (b : Bool) : List Level := c.burst c.lfBitPulses c.lfH ++ c.off (c.lfGap b)

/-- One VariableFrame data bit: the burst that carries the bit, then a fixed gap (spec/42_encoder.md R142). -/
def Config.vfBit (c : Config) (b : Bool) : List Level := c.burst (c.vfPulses b) c.vfH ++ c.off c.vfGap

/-- `W_LF(p)` (spec/42_encoder.md R141). -/
def Config.waveLf (c : Config) (p : Word) : List Level :=
  c.burst c.lfHdrPulses c.lfH ++ c.off c.lfHdrGap
    ++ (List.range 32).flatMap (fun i => c.lfBit (payloadBit p i))
    ++ c.burst c.lfTrailPulses c.lfH

/-- `W_VF(p)` (spec/42_encoder.md R142): bits 0 to 11 only, no closing burst. -/
def Config.waveVf (c : Config) (p : Word) : List Level :=
  c.burst c.vfHdrPulses c.vfH ++ c.off c.vfHdrGap
    ++ (List.range 12).flatMap (fun i => c.vfBit (payloadBit p i))

/-- The waveform `W` of `encode_step` (spec/42_encoder.md R145). -/
def Config.wave (c : Config) (pr : Protocol) (p : Word) : List Level :=
  match pr with
  | .longFrame => c.waveLf p
  | .variableFrame => c.waveVf p

/-- The number of ones among the `n` least significant bits of a payload (spec/42_encoder.md R143). -/
def popcount (n : Nat) (p : Word) : Nat := (List.range n).countP (payloadBit p)

/-- `len_LF` for a payload with `k` ones (spec/42_encoder.md R143). -/
def Config.lenLf (c : Config) (k : Nat) : Nat :=
  2 * c.lfH * (c.lfHdrPulses + 32 * c.lfBitPulses + c.lfTrailPulses)
    + c.lfHdrGap + k * c.lfGap1 + (32 - k) * c.lfGap0

/-- `len_VF` for a payload with `k` ones among its 12 sent bits (spec/42_encoder.md R143). -/
def Config.lenVf (c : Config) (k : Nat) : Nat :=
  2 * c.vfH * (c.vfHdrPulses + k * c.vfPulses1 + (12 - k) * c.vfPulses0)
    + c.vfHdrGap + 12 * c.vfGap

/-- The waveform's length in cycles, which is the command's latency (spec/42_encoder.md R143, R144). -/
def Config.waveLen (c : Config) (pr : Protocol) (p : Word) : Nat :=
  match pr with
  | .longFrame => c.lenLf (popcount 32 p)
  | .variableFrame => c.lenVf (popcount 12 p)

/-- `A^n`: `n` active samples (spec/00_scope.md R11). A sample is `true` when it is active. -/
def actRun (n : Nat) : List Bool := List.replicate n true

/-- `I^n`: `n` idle samples (spec/00_scope.md R11). -/
def idleRun (n : Nat) : List Bool := List.replicate n false

/-- The ideal envelope of `burst(n, h)` followed by a gap of `g` cycles (spec/42_encoder.md R149). -/
def envBurst (n h g : Nat) : List Bool := actRun ((2 * n - 1) * h) ++ idleRun (h + g)

/-- `env(W_LF(p))` (spec/42_encoder.md R149). -/
def Config.envLf (c : Config) (p : Word) : List Bool :=
  envBurst c.lfHdrPulses c.lfH c.lfHdrGap
    ++ (List.range 32).flatMap (fun i => envBurst c.lfBitPulses c.lfH (c.lfGap (payloadBit p i)))
    ++ envBurst c.lfTrailPulses c.lfH 0

/-- `env(W_VF(p))` (spec/42_encoder.md R149). -/
def Config.envVf (c : Config) (p : Word) : List Bool :=
  envBurst c.vfHdrPulses c.vfH c.vfHdrGap
    ++ (List.range 12).flatMap (fun i => envBurst (c.vfPulses (payloadBit p i)) c.vfH c.vfGap)

end Sys2Proof
end

