-- ==== Sys2Proof/Machine/Windows.lean ====
section
/-! DEFINITION. The timing-window classifier: window membership, first-match classification and the decoder's five
classifications in priority order (spec/41_timing_windows.md R120 to R126). -/

namespace Sys2Proof

/-- `in(n, w)`: inclusive at both ends (spec/41_timing_windows.md R121). -/
def Window.holds (w : Window) (n : Nat) : Bool := decide (w.min ≤ n) && decide (n ≤ w.max)

/-- A classification: the symbol of the first window that holds `n`, `none` for NOMATCH (R122). -/
def classify {σ : Type} (n : Nat) : List (Window × σ) → Option σ
  | [] => none
  | (w, s) :: rest => if w.holds n then some s else classify n rest

/-- What a LongFrame header space selects (R126): a data frame or a repeat code. -/
inductive LfHeader where
  | data
  | rpt
  deriving DecidableEq, Repr

/-- Header mark (R126 row 1): LongFrame is checked first. -/
def Config.hdrMarkWindows (c : Config) : List (Window × Protocol) :=
  [(c.wLfHdrMark, .longFrame), (c.wVfHdrMark, .variableFrame)]

/-- LongFrame header space (R126 row 2). -/
def Config.lfHdrSpaceWindows (c : Config) : List (Window × LfHeader) :=
  [(c.wLfHdrSpace, .data), (c.wLfRptSpace, .rpt)]

/-- LongFrame bit space (R126 row 3). -/
def Config.lfSpaceWindows (c : Config) : List (Window × Bool) :=
  [(c.wLfSpace0, false), (c.wLfSpace1, true)]

/-- VariableFrame header space (R126 row 4). -/
def Config.vfHdrSpaceWindows (c : Config) : List (Window × Unit) :=
  [(c.wVfHdrSpace, ())]

/-- VariableFrame bit mark (R126 row 5). -/
def Config.vfMarkWindows (c : Config) : List (Window × Bool) :=
  [(c.wVfMark0, false), (c.wVfMark1, true)]

end Sys2Proof
end

