-- ==== Sys2Proof/WellFormed.lean ====
section
/-! DEFINITION. What is checked before anything runs: the configuration checks made when the block is built
(spec/41_timing_windows.md R127) and what the spec lets software issue (spec/30_encoding.md R74, spec/40_commands.md R103).
The machine itself runs every command word (R79) and refuses none. -/

namespace Sys2Proof

/-- Two windows are disjoint (R127, last paragraph). -/
abbrev Window.Disjoint (a b : Window) : Prop := a.max < b.min ∨ b.max < a.min

/-- The nine windows of spec/00_scope.md R7. -/
def Config.windows (c : Config) : List Window :=
  [c.wLfHdrMark, c.wLfHdrSpace, c.wLfRptSpace, c.wLfSpace0, c.wLfSpace1,
   c.wVfHdrMark, c.wVfHdrSpace, c.wVfMark0, c.wVfMark1]

/-- R127 item 1. -/
abbrev Config.WindowsLegal (c : Config) : Prop := ∀ w ∈ c.windows, 1 ≤ w.min ∧ w.min ≤ w.max

/-- R127 item 2. -/
abbrev Config.WindowsBelowLimit (c : Config) : Prop := ∀ w ∈ c.windows, w.max < c.symLimit

/-- R127 item 3. -/
abbrev Config.HdrMarksDisjoint (c : Config) : Prop := c.wLfHdrMark.Disjoint c.wVfHdrMark

/-- R127 item 4. -/
abbrev Config.LfHdrSpacesDisjoint (c : Config) : Prop := c.wLfHdrSpace.Disjoint c.wLfRptSpace

/-- R127 item 5. -/
abbrev Config.LfSpacesDisjoint (c : Config) : Prop := c.wLfSpace0.Disjoint c.wLfSpace1

/-- R127 item 6. -/
abbrev Config.VfMarksDisjoint (c : Config) : Prop := c.wVfMark0.Disjoint c.wVfMark1

/-- R127 item 7. -/
abbrev Config.LimitsAtLeastTwo (c : Config) : Prop := 2 ≤ c.symLimit ∧ 2 ≤ c.vfBlkTo1 ∧ 2 ≤ c.vfBlkTo2

/-- The largest limit a run is measured against (R127 item 8). -/
def Config.maxLimit (c : Config) : Nat := max c.symLimit (max c.vfBlkTo1 c.vfBlkTo2)

/-- R127 item 8, with the type `natural ≥ 2` that spec/00_scope.md R7 gives `CNT_W`. -/
abbrev Config.CounterFits (c : Config) : Prop := 2 ≤ c.cntW ∧ c.maxLimit ≤ 2 ^ c.cntW

/-- R127 item 9. -/
abbrev Config.PulsesPositive (c : Config) : Prop :=
  1 ≤ c.lfH ∧ 1 ≤ c.vfH ∧ 1 ≤ c.lfHdrPulses ∧ 1 ≤ c.lfBitPulses ∧ 1 ≤ c.lfTrailPulses ∧
    1 ≤ c.vfHdrPulses ∧ 1 ≤ c.vfPulses0 ∧ 1 ≤ c.vfPulses1

/-- R127 item 10, for every payload: a length depends on the payload only through its number of ones. -/
abbrev Config.WavesFit (c : Config) : Prop := (∀ k < 33, c.lenLf k < 2 ^ 32) ∧ (∀ k < 13, c.lenVf k < 2 ^ 32)

/-- The checks of R127, which a configuration must pass before it describes a block. -/
abbrev Config.Ok (c : Config) : Prop :=
  c.WindowsLegal ∧ c.WindowsBelowLimit ∧ c.HdrMarksDisjoint ∧ c.LfHdrSpacesDisjoint ∧ c.LfSpacesDisjoint ∧
    c.VfMarksDisjoint ∧ c.LimitsAtLeastTwo ∧ c.CounterFits ∧ c.PulsesPositive ∧ c.WavesFit

/-- The configuration error of spec/60_exceptions.md R222, by the number of the first failing item of R127; `none` when
every check passes. It arises when the block is built, never at run time. -/
def Config.configError (c : Config) : Option Nat :=
  if ¬ c.WindowsLegal then some 1
  else if ¬ c.WindowsBelowLimit then some 2
  else if ¬ c.HdrMarksDisjoint then some 3
  else if ¬ c.LfHdrSpacesDisjoint then some 4
  else if ¬ c.LfSpacesDisjoint then some 5
  else if ¬ c.VfMarksDisjoint then some 6
  else if ¬ c.LimitsAtLeastTwo then some 7
  else if ¬ c.CounterFits then some 8
  else if ¬ c.PulsesPositive then some 9
  else if ¬ c.WavesFit then some 10
  else none

/-- The loopback predicate (spec/43_decoder.md R193): the configuration decodes its own ideal envelopes. -/
abbrev Config.LoopbackConsistent (c : Config) : Prop :=
  (c.wLfHdrMark.holds ((2 * c.lfHdrPulses - 1) * c.lfH) ∧ c.wLfHdrSpace.holds (c.lfH + c.lfHdrGap)) ∧
  (c.wLfSpace0.holds (c.lfH + c.lfGap0) ∧ c.wLfSpace1.holds (c.lfH + c.lfGap1)) ∧
  ((2 * c.lfBitPulses - 1) * c.lfH < c.symLimit ∧ (2 * c.lfTrailPulses - 1) * c.lfH < c.symLimit) ∧
  (c.wVfHdrMark.holds ((2 * c.vfHdrPulses - 1) * c.vfH) ∧ c.wVfHdrSpace.holds (c.vfH + c.vfHdrGap)) ∧
  (c.wVfMark0.holds ((2 * c.vfPulses0 - 1) * c.vfH) ∧ c.wVfMark1.holds ((2 * c.vfPulses1 - 1) * c.vfH)) ∧
  (c.vfH + c.vfGap < c.symLimit ∧ c.vfH + c.vfGap < c.vfBlkTo1)

/-- What software may issue: not RSVD (spec/40_commands.md R103), and an ignored `arg` written as 0
(spec/30_encoding.md R74). The machine does not check it. -/
def Instr.issuable : Instr → Bool
  | .nop => true
  | .txLf _ => true
  | .txVf _ => true
  | .dec _ => true
  | .decInf a => a == 0
  | .rsvd => false

end Sys2Proof
end

