-- ==== Sys2Proof/Decode.lean ====
section
/-! DEFINITION. The binary codes (spec/30_encoding.md R71, R75, R76), the command decoder, total on every 40-bit word
(R79), and the encoder, written from the same tables (R70 to R73, R81). -/

namespace Sys2Proof

/-- The code of `op` (R71), also of `done_op` (R77). -/
def Op.code : Op → BitVec 2
  | .nop => 0b00#2
  | .transmit => 0b01#2
  | .decode => 0b10#2
  | .reserved => 0b11#2

/-- The operation that a code of `op` selects (R71). -/
def Op.ofCode (b : BitVec 2) : Op :=
  if b = 0b00#2 then .nop
  else if b = 0b01#2 then .transmit
  else if b = 0b10#2 then .decode
  else .reserved

/-- LongFrame is 0, VariableFrame is 1 (R75). -/
def Protocol.code : Protocol → BitVec 1
  | .longFrame => 0#1
  | .variableFrame => 1#1

/-- The code in `res_outcome` (R76). -/
def ResOutcome.code : ResOutcome → BitVec 2
  | .none => 0b00#2
  | .success => 0b01#2
  | .timeout => 0b10#2
  | .protocolError => 0b11#2

/-- `op = cmd_word[1:0]` (R70). -/
def opField (w : CmdWord) : BitVec 2 := w.extractLsb' 0 2

/-- `mod = cmd_word[2]` (R70). -/
def modField (w : CmdWord) : BitVec 1 := w.extractLsb' 2 1

/-- `rsvd = cmd_word[7:3]` (R70), ignored by the block (R74). -/
def rsvdField (w : CmdWord) : BitVec 5 := w.extractLsb' 3 5

/-- `arg = cmd_word[39:8]` (R70), used as it stands (R73). -/
def argField (w : CmdWord) : Word := w.extractLsb' 8 32

/-- The command a word selects (R71, R72, R78). Every word selects one (R79): nothing is rejected. -/
def decode (w : CmdWord) : Instr :=
  match Op.ofCode (opField w) with
  | .nop => .nop
  | .transmit => if modField w = 0#1 then .txLf (argField w) else .txVf (argField w)
  | .decode => if modField w = 0#1 then .dec (argField w) else .decInf (argField w)
  | .reserved => .rsvd

/-- A command word from its four fields (R70). -/
def packWord (op : BitVec 2) (md : BitVec 1) (rs : BitVec 5) (arg : Word) : CmdWord := arg ++ rs ++ md ++ op

/-- The `op` field of a command's encoding (R78). -/
def Instr.op : Instr → Op
  | .nop => .nop
  | .txLf _ => .transmit
  | .txVf _ => .transmit
  | .dec _ => .decode
  | .decInf _ => .decode
  | .rsvd => .reserved

/-- The `mod` field of a command's encoding (R72, R78), 0 where it is ignored (R81). -/
def Instr.mod : Instr → BitVec 1
  | .nop => 0#1
  | .txLf _ => 0#1
  | .txVf _ => 1#1
  | .dec _ => 0#1
  | .decInf _ => 1#1
  | .rsvd => 0#1

/-- The `arg` field of a command's encoding (R73), 0 where it is not latched (R81). -/
def Instr.arg : Instr → Word
  | .nop => 0
  | .txLf p => p
  | .txVf p => p
  | .dec t => t
  | .decInf a => a
  | .rsvd => 0

/-- The word of a command (R81), with 0 in every field the command does not give. -/
def encode (i : Instr) : CmdWord := packWord i.op.code i.mod 0#5 i.arg

/-- The bits of the word that the decoder reads for this command: those it selects on and those it latches (R74). -/
def Instr.readMask : Instr → CmdWord
  | .nop => 0x0000000003#40
  | .txLf _ => 0xFFFFFFFF07#40
  | .txVf _ => 0xFFFFFFFF07#40
  | .dec _ => 0xFFFFFFFF07#40
  | .decInf _ => 0xFFFFFFFF07#40
  | .rsvd => 0x0000000003#40

/-- One row of the opcode table (R78): a word `w` selects the row when `w &&& mask = match`. -/
structure OpcodeRow where
  mnemonic : String
  pattern  : CmdWord
  mask     : CmdWord
  deriving DecidableEq, Repr

/-- `w` selects the row (R78). -/
def OpcodeRow.selects (r : OpcodeRow) (w : CmdWord) : Bool := w &&& r.mask == r.pattern

/-- The command map of R78, row by row. -/
def opcodeTable : List OpcodeRow :=
  [⟨"NOP", 0x0000000000#40, 0x0000000003#40⟩,
   ⟨"TX.LF", 0x0000000001#40, 0x0000000007#40⟩,
   ⟨"TX.VF", 0x0000000005#40, 0x0000000007#40⟩,
   ⟨"DEC", 0x0000000002#40, 0x0000000007#40⟩,
   ⟨"DEC.INF", 0x0000000006#40, 0x0000000007#40⟩,
   ⟨"RSVD", 0x0000000003#40, 0x0000000003#40⟩]

/-- The mnemonic of a command (R78, R81). -/
def Instr.mnemonic : Instr → String
  | .nop => "NOP"
  | .txLf _ => "TX.LF"
  | .txVf _ => "TX.VF"
  | .dec _ => "DEC"
  | .decInf _ => "DEC.INF"
  | .rsvd => "RSVD"

/-- The 40-bit word whose low `nbits` bits are `w` and whose other bits are 0; `none` where a bit of `w` lies outside the
40 bits of a command word. DESIGN CHOICE (log 15): the spec has no word of another width. -/
def tableWord (nbits w : Nat) : Option CmdWord :=
  if w % 2 ^ nbits < 2 ^ 40 then some (BitVec.ofNat 40 (w % 2 ^ nbits)) else none

/-- The command the decoder reads from a word whose bits are numbered as the opcode table numbers them. -/
def decodeTableWord (nbits w : Nat) : Option Instr := (tableWord nbits w).map decode

end Sys2Proof
end

