-- ==== Sys2Proof/Machine/State.lean ====
section
/-! DEFINITION. The block's state (spec/10_state.md R22 to R31, R33), its reset state (R34), and the reasons a step could
stop, of which the spec has none (spec/60_exceptions.md R220). -/

namespace Sys2Proof.Machine

/-- The sequencer register `st` (spec/10_state.md R25). The encodings 0xD to 0xF are never entered and left out, as R25
says of the model's state type. -/
inductive Seq where
  /-- `IDLE`: no command in flight. -/
  | idle
  /-- `D_WAIT_IDLE`. -/
  | dWaitIdle
  /-- `D_WAIT_MARK`. -/
  | dWaitMark
  /-- `D_HDR_MARK`. -/
  | dHdrMark
  /-- `D_LF_HDR_SPACE`. -/
  | dLfHdrSpace
  /-- `D_LF_MARK`. -/
  | dLfMark
  /-- `D_LF_SPACE`. -/
  | dLfSpace
  /-- `D_LF_TRAIL`. -/
  | dLfTrail
  /-- `D_LF_RPT_TRAIL`. -/
  | dLfRptTrail
  /-- `D_VF_HDR_SPACE`. -/
  | dVfHdrSpace
  /-- `D_VF_SPACE`. -/
  | dVfSpace
  /-- `D_VF_MARK`. -/
  | dVfMark
  /-- `E_TX`: encoder running. -/
  | eTx
  deriving DecidableEq, Repr

/-- The state: every register of spec/10_state.md R22 to R31, then the model's own fields. -/
structure State where
  /-- MODEL'S OWN (log 1): the configuration the block was built for (spec/00_scope.md R7). No step changes it. -/
  cfg         : Config
  /-- The sequencer (R25). -/
  st          : Seq
  /-- `line_out` (R22). -/
  lineOut     : Level
  /-- `line_oe` (R22). -/
  lineOe      : Bool
  /-- The synchroniser `sync[0..SYNC_STAGES-1]`, stage 0 first (R23). -/
  sync        : List Level
  /-- `cnt`, `CNT_W` bits wide (R26): a number that every write truncates to that width (log 5). -/
  cnt         : Nat
  /-- `wcnt` (R26). -/
  wcnt        : Word
  /-- `tmo` (R26). -/
  tmo         : Word
  /-- `inf` (R26). -/
  inf         : Bool
  /-- `bidx` (R26). -/
  bidx        : BitVec 5
  /-- `acc` (R26). -/
  acc         : Word
  /-- `dproto` (R26). -/
  dproto      : Protocol
  /-- `eproto` (R27). -/
  eproto      : Protocol
  /-- `epay` (R27). -/
  epay        : Word
  /-- `ek` (R27). -/
  ek          : Word
  /-- `done` (R29). -/
  done        : Bool
  /-- `done_op` (R29, spec/30_encoding.md R77). -/
  doneOp      : Op
  /-- `res_outcome` (R30). -/
  resOutcome  : ResOutcome
  /-- `res_protocol` (R30). -/
  resProtocol : Protocol
  /-- `res_bit_count` (R30). -/
  resBitCount : BitVec 6
  /-- `res_payload` (R30). -/
  resPayload  : Word
  /-- `res_is_repeat` (R30). -/
  resIsRepeat : Bool
  /-- MODEL'S OWN (log 2): the input ports' values at the coming edges, the next edge first, as far as written down. -/
  inputs      : List InPorts
  /-- MODEL'S OWN (log 2): the index of the coming edge, to which the free input value is applied. -/
  now         : Nat
  deriving DecidableEq, Repr

/-- The reasons the machine could stop with a fault. The block raises none (spec/60_exceptions.md R220), so there is no
constructor: nothing raises one, which is safe. -/
inductive Fault
  deriving DecidableEq, Repr

/-- The reasons the model could refuse. -/
inductive Refusal where
  /-- Raised by an arm of `exec` for an instruction without a meaning; no arm raises it. Safe. -/
  | notModelled (mnemonic : String)
  deriving DecidableEq, Repr

/-- The state right after a reset edge of a block of configuration `c` whose synchroniser then holds `sync`
(spec/10_state.md R34, spec/70_reset_and_hazards.md R240, R243), with no input written down. -/
def State.resetOf (c : Config) (sync : List Level) : State where
  cfg := c
  st := .idle
  lineOut := !c.txOnLevel
  lineOe := false
  sync := sync
  cnt := 0
  wcnt := 0
  tmo := 0
  inf := false
  bidx := 0
  acc := 0
  dproto := .longFrame
  eproto := .longFrame
  epay := 0
  ek := 0
  done := false
  doneOp := .nop
  resOutcome := .none
  resProtocol := .longFrame
  resBitCount := 0
  resPayload := 0
  resIsRepeat := false
  inputs := []
  now := 0

/-- The machine right after reset (R34). Its synchroniser stages are free draws (spec/93_implementation_defined.md I3,
log 4) and its configuration is the spec's example EX (DESIGN CHOICE, log 1). -/
def State.reset : State :=
  State.resetOf Config.ex ((List.range Config.ex.syncStages).map Config.freeSync)

end Sys2Proof.Machine
end

