-- ==== Sys2Proof/Machine/Ops.lean ====
section
/-! DEFINITION. The named operations over ports and registers that are not flags: the coming edge's inputs, the
synchroniser and the sample (spec/10_state.md R23, R24), the line registers (R22), the run counter's width (R26), reset
(spec/70_reset_and_hazards.md R240), and the output ports (R20, R28). The block has no memory (spec/20_memory.md R50) and
no exception to take (spec/60_exceptions.md R220); what stands in place of one is `finish` in Flags.lean (R225). -/

namespace Sys2Proof.Machine

/-- The code of `st` (spec/10_state.md R25); no port shows it. -/
def Seq.code : Seq → BitVec 4
  | .idle => 0x0#4
  | .dWaitIdle => 0x1#4
  | .dWaitMark => 0x2#4
  | .dHdrMark => 0x3#4
  | .dLfHdrSpace => 0x4#4
  | .dLfMark => 0x5#4
  | .dLfSpace => 0x6#4
  | .dLfTrail => 0x7#4
  | .dLfRptTrail => 0x8#4
  | .dVfHdrSpace => 0x9#4
  | .dVfSpace => 0xA#4
  | .dVfMark => 0xB#4
  | .eTx => 0xC#4

/-- The decoder's states `D_*` (spec/10_state.md R25). -/
def Seq.isDecoder : Seq → Bool
  | .idle => false
  | .dWaitIdle => true
  | .dWaitMark => true
  | .dHdrMark => true
  | .dLfHdrSpace => true
  | .dLfMark => true
  | .dLfSpace => true
  | .dLfTrail => true
  | .dLfRptTrail => true
  | .dVfHdrSpace => true
  | .dVfSpace => true
  | .dVfMark => true
  | .eTx => false

/-- The level a measuring state counts, `some true` for active; `none` where the state measures nothing (R25). -/
def Seq.counts : Seq → Option Bool
  | .idle => none
  | .dWaitIdle => none
  | .dWaitMark => none
  | .dHdrMark => some true
  | .dLfHdrSpace => some false
  | .dLfMark => some true
  | .dLfSpace => some false
  | .dLfTrail => some true
  | .dLfRptTrail => some true
  | .dVfHdrSpace => some false
  | .dVfSpace => some false
  | .dVfMark => some true
  | .eTx => none

/-- The input ports at the coming edge: written down in `inputs`, or else a free draw (spec/00_scope.md R5, log 2). -/
def State.nextPorts (s : State) : InPorts :=
  match s.inputs with
  | [] => Config.freePorts s.now
  | p :: _ => p

/-- The edge's inputs are used up. -/
def State.consumePorts (s : State) : State := { s with inputs := s.inputs.tail, now := s.now + 1 }

/-- `sample()` (spec/10_state.md R24): the last synchroniser stage before the edge, or `line_in` where there is none.
A chain of a wrong length, which no state of a built block has, reads `line_in` (DESIGN CHOICE, log 13). -/
def State.sample (s : State) (lineIn : Level) : Level := (lineIn :: s.sync).getD s.cfg.syncStages lineIn

/-- `act`: the sample is at the active level (spec/10_state.md R24). -/
def State.act (s : State) (lineIn : Level) : Bool := s.sample lineIn == s.cfg.activeLevel

/-- The synchroniser shifts: `sync[0] <- line_in`, `sync[j] <- sync[j-1]` (spec/10_state.md R23). -/
def State.shiftSync (s : State) (lineIn : Level) : State := { s with sync := (lineIn :: s.sync).take s.cfg.syncStages }

/-- A value as the `CNT_W`-bit register `cnt` holds it (spec/10_state.md R26, log 5). -/
def State.truncCnt (s : State) (n : Nat) : Nat := n % 2 ^ s.cfg.cntW

/-- The line is driven: `line_oe <- 1; line_out <- l` (spec/10_state.md R22). -/
def State.driveLine (s : State) (l : Level) : State := { s with lineOe := true, lineOut := l }

/-- The line is released: `line_oe <- 0; line_out <- not TX_ON_LEVEL` (spec/10_state.md R22). -/
def State.releaseLine (s : State) : State := { s with lineOe := false, lineOut := !s.cfg.txOnLevel }

/-- A reset edge (spec/70_reset_and_hazards.md R240): every register of spec/10_state.md R34 takes its reset value. The
synchroniser is not reset, and the configuration is no register. -/
def State.applyReset (s : State) : State :=
  { State.resetOf s.cfg s.sync with inputs := s.inputs, now := s.now }

/-- The values on the output ports (spec/10_state.md R20). -/
structure OutPorts where
  cmdReady    : Bool
  lineOut     : Level
  lineOe      : Bool
  done        : Bool
  doneOp      : BitVec 2
  resOutcome  : BitVec 2
  resProtocol : BitVec 1
  resBitCount : BitVec 6
  resPayload  : Word
  resIsRepeat : Bool
  deriving DecidableEq, Repr

/-- `cmd_ready = (st = IDLE) and (rst = 0)` (spec/10_state.md R28), combinational in the cycle's `rst`. -/
def State.cmdReady (s : State) (rst : Bool) : Bool := decide (s.st = .idle) && !rst

/-- The output ports in a cycle in which `rst` has the given value (spec/10_state.md R20, R21). -/
def State.outPorts (s : State) (rst : Bool) : OutPorts where
  cmdReady := s.cmdReady rst
  lineOut := s.lineOut
  lineOe := s.lineOe
  done := s.done
  doneOp := s.doneOp.code
  resOutcome := s.resOutcome.code
  resProtocol := s.resProtocol.code
  resBitCount := s.resBitCount
  resPayload := s.resPayload
  resIsRepeat := s.resIsRepeat

end Sys2Proof.Machine
end

