-- ==== Sys2Proof/Machine/Flags.lean ====
section
/-! DEFINITION. The status the host reads (spec/10_state.md R29, R30, R32): the completion flags `done` and `done_op`, and the
result registers with the condition flags `res_outcome` and `res_is_repeat`. -/

namespace Sys2Proof.Machine

/-- `done <- 0`, the default of every edge without reset (spec/40_commands.md R101). -/
def State.clearDone (s : State) : State := { s with done := false }

/-- A command completes (spec/40_commands.md R104): `done <- 1; done_op <- op; st <- IDLE`. -/
def State.complete (s : State) (op : Op) : State := { s with st := .idle, done := true, doneOp := op }

/-- The five result registers are written together (spec/20_memory.md R55). -/
def State.setResult (s : State) (o : ResOutcome) (p : Protocol) (c : BitVec 6) (v : Word) (r : Bool) : State :=
  { s with resOutcome := o, resProtocol := p, resBitCount := c, resPayload := v, resIsRepeat := r }

/-- `finish(o, p, c, v, r)` (spec/43_decoder.md R162): the decode completes with outcome `o`, and only a success writes the
frame. It stands in place of an exception entry, and it writes none of `acc`, `bidx`, `cnt`, `wcnt`, `dproto`, `tmo` and `inf`,
which keep the values that the edge's measurement gives them (spec/60_exceptions.md R225, log 7). -/
def State.finish (s : State) (o : ResOutcome) (p : Protocol) (c : BitVec 6) (v : Word) (r : Bool) : State :=
  match o with
  | .success => (s.complete .decode).setResult .success p c v r
  | .none => (s.complete .decode).setResult .none .longFrame 0 0 false
  | .timeout => (s.complete .decode).setResult .timeout .longFrame 0 0 false
  | .protocolError => (s.complete .decode).setResult .protocolError .longFrame 0 0 false

/-- `finish(TIMEOUT)` (spec/43_decoder.md R162). -/
def State.finishTimeout (s : State) : State := s.finish .timeout .longFrame 0 0 false

/-- `finish(PROTOCOL_ERROR)` (spec/43_decoder.md R162). -/
def State.finishProtocolError (s : State) : State := s.finish .protocolError .longFrame 0 0 false

end Sys2Proof.Machine
end

