-- ==== Sys2Proof/Machine/Operands.lean ====
section
/-! DEFINITION. How a command's operands are latched at its acceptance edge and never read again
(spec/30_encoding.md R72, R73, spec/92_eei_decisions.md D35): the payload of a TRANSMIT, the overall timeout of a DECODE. -/

namespace Sys2Proof.Machine

/-- TRANSMIT latches its protocol and payload and starts the waveform index
(spec/42_encoder.md R146, R147: `eproto`, `epay`, `ek`). -/
def State.latchPayload (s : State) (pr : Protocol) (p : Word) : State := { s with eproto := pr, epay := p, ek := 0 }

/-- DECODE latches its timeout and its wait-for-ever flag and clears the decoder's datapath (spec/43_decoder.md R160:
`tmo`, `inf`, `wcnt`, `cnt`, `bidx`, `acc`, `dproto`). -/
def State.latchTimeout (s : State) (md : Bool) (t : Word) : State :=
  { s with tmo := t, inf := md, wcnt := 0, cnt := 0, bidx := 0, acc := 0, dproto := .longFrame }

end Sys2Proof.Machine
end

