-- ==== Sys2Proof/Machine/Command.lean ====
section
/-! DEFINITION. The meanings of NOP and RSVD (spec/40_commands.md R102, R103). A meaning is the command's acceptance
action, on the state in which the edge has already shifted the synchroniser and cleared `done` (R101, log 6). -/

namespace Sys2Proof.Machine

/-- `NOP` (spec/40_commands.md R102): `done <- 1; done_op <- 0b00`, `st` stays `IDLE`. -/
def execNop (s : State) : Host.Outcome State Fault Refusal := .next (s.complete .nop)

/-- `RSVD` (spec/40_commands.md R103): `done <- 1; done_op <- 0b11`, `st` stays `IDLE`. -/
def execRsvd (s : State) : Host.Outcome State Fault Refusal := .next (s.complete .reserved)

end Sys2Proof.Machine
end

