-- ==== Sys2Proof/Machine/Decoder.lean ====
section
/-! DEFINITION. The Frame Decoder: run measurement (spec/41_timing_windows.md R124, R125), one function per sequencer state
(spec/43_decoder.md R163 to R182), `decode_step`, and the meanings of DEC and DEC.INF (R160, R190, R191). `act` is
whether the edge's sample is active. -/

namespace Sys2Proof.Machine

/-- What `measure` returns (spec/41_timing_windows.md R124). -/
inductive Measured where
  | cont
  | limit
  | ended (n : Nat)
  deriving DecidableEq, Repr

/-- The result of `measure(L, lim)` (spec/41_timing_windows.md R124); `level` is `true` when `L` is active. -/
def measured (act level : Bool) (lim cnt : Nat) : Measured :=
  if act = level then
    if lim ≤ cnt + 1 then .limit else .cont
  else .ended cnt

/-- What `measure(L, lim)` leaves in `cnt` (spec/41_timing_windows.md R124): one more sample of the run, or 1 for the first
sample of the next run; at the limit it is not written. -/
def State.count (s : State) (m : Measured) : State :=
  match m with
  | .cont => { s with cnt := s.truncCnt (s.cnt + 1) }
  | .limit => s
  | .ended _ => { s with cnt := s.truncCnt 1 }

/-- The limit of each measuring state (spec/41_timing_windows.md R125, spec/43_decoder.md R182). -/
def State.limit (s : State) : Nat :=
  if s.st = .dVfSpace ∧ s.bidx = 12 then s.cfg.vfBlkTo1
  else if s.st = .dVfSpace ∧ s.bidx = 15 then s.cfg.vfBlkTo2
  else s.cfg.symLimit

/-- The overall budget is used up (spec/43_decoder.md R163). -/
def State.waitElapsed (s : State) : Bool := !s.inf && decide (s.tmo ≤ s.wcnt)

/-- `if inf = 0: wcnt <- wcnt + 1` (spec/43_decoder.md R163). -/
def State.countWait (s : State) : State := if s.inf then s else { s with wcnt := s.wcnt + 1 }

/-- `D_WAIT_IDLE` (spec/43_decoder.md R163, R164). -/
def State.stepWaitIdle (act : Bool) (s : State) : State :=
  if s.waitElapsed then s.finishTimeout
  else if act then s.countWait
  else { s.countWait with st := .dWaitMark }

/-- `D_WAIT_MARK` (spec/43_decoder.md R163, R165). -/
def State.stepWaitMark (act : Bool) (s : State) : State :=
  if s.waitElapsed then s.finishTimeout
  else if act then { s.countWait with st := .dHdrMark, cnt := s.truncCnt 1 }
  else s.countWait

/-- `D_HDR_MARK`: the protocol auto-selector (spec/43_decoder.md R170). -/
def State.stepHdrMark (act : Bool) (s : State) : State :=
  match measured act true s.cfg.symLimit s.cnt with
  | .cont => s.count .cont
  | .limit => s.finishTimeout
  | .ended n =>
    match classify n s.cfg.hdrMarkWindows with
    | some .longFrame => { s.count (.ended n) with dproto := .longFrame, st := .dLfHdrSpace }
    | some .variableFrame => { s.count (.ended n) with dproto := .variableFrame, st := .dVfHdrSpace }
    | none => (s.count (.ended n)).finishProtocolError

/-- `D_LF_HDR_SPACE`: data frame or repeat code (spec/43_decoder.md R171). -/
def State.stepLfHdrSpace (act : Bool) (s : State) : State :=
  match measured act false s.cfg.symLimit s.cnt with
  | .cont => s.count .cont
  | .limit => s.finishTimeout
  | .ended n =>
    match classify n s.cfg.lfHdrSpaceWindows with
    | some .data => { s.count (.ended n) with bidx := 0, st := .dLfMark }
    | some .rpt => { s.count (.ended n) with st := .dLfRptTrail }
    | none => (s.count (.ended n)).finishProtocolError

/-- `D_LF_RPT_TRAIL` (spec/43_decoder.md R172); the mark's length is not checked. -/
def State.stepLfRptTrail (act : Bool) (s : State) : State :=
  match measured act true s.cfg.symLimit s.cnt with
  | .cont => s.count .cont
  | .limit => s.finishTimeout
  | .ended n => (s.count (.ended n)).finish .success .longFrame 0 0 true

/-- `D_LF_MARK` (spec/43_decoder.md R173); the mark's length is not checked. -/
def State.stepLfMark (act : Bool) (s : State) : State :=
  match measured act true s.cfg.symLimit s.cnt with
  | .cont => s.count .cont
  | .limit => s.finishTimeout
  | .ended n => { s.count (.ended n) with st := .dLfSpace }

/-- `acc[i] <- b` (spec/43_decoder.md R174). -/
def writeBit (v : Word) (i : BitVec 5) (b : Bool) : Word :=
  if b then v ||| (1#32 <<< i.toNat) else v &&& ~~~(1#32 <<< i.toNat)

/-- `v | (b << i)` (spec/43_decoder.md R181). -/
def orBit (v : Word) (i : BitVec 5) (b : Bool) : Word := v ||| ((BitVec.ofBool b).zeroExtend 32 <<< i.toNat)

/-- `D_LF_SPACE`: the bit space, least significant bit first (spec/43_decoder.md R174). -/
def State.stepLfSpace (act : Bool) (s : State) : State :=
  match measured act false s.cfg.symLimit s.cnt with
  | .cont => s.count .cont
  | .limit => s.finishTimeout
  | .ended n =>
    match classify n s.cfg.lfSpaceWindows with
    | none => (s.count (.ended n)).finishProtocolError
    | some b =>
      if s.bidx = 31 then { s.count (.ended n) with acc := writeBit s.acc s.bidx b, st := .dLfTrail }
      else { s.count (.ended n) with acc := writeBit s.acc s.bidx b, bidx := s.bidx + 1, st := .dLfMark }

/-- `D_LF_TRAIL` (spec/43_decoder.md R175); the mark's length is not checked. -/
def State.stepLfTrail (act : Bool) (s : State) : State :=
  match measured act true s.cfg.symLimit s.cnt with
  | .cont => s.count .cont
  | .limit => s.finishTimeout
  | .ended n => (s.count (.ended n)).finish .success .longFrame 32 s.acc false

/-- `D_VF_HDR_SPACE` (spec/43_decoder.md R179). -/
def State.stepVfHdrSpace (act : Bool) (s : State) : State :=
  match measured act false s.cfg.symLimit s.cnt with
  | .cont => s.count .cont
  | .limit => s.finishTimeout
  | .ended n =>
    match classify n s.cfg.vfHdrSpaceWindows with
    | some () => { s.count (.ended n) with bidx := 0, st := .dVfMark }
    | none => (s.count (.ended n)).finishProtocolError

/-- `D_VF_MARK`: the bit mark; the third block's last mark ends the frame (spec/43_decoder.md R180, R181). -/
def State.stepVfMark (act : Bool) (s : State) : State :=
  match measured act true s.cfg.symLimit s.cnt with
  | .cont => s.count .cont
  | .limit => s.finishTimeout
  | .ended n =>
    match classify n s.cfg.vfMarkWindows with
    | none => (s.count (.ended n)).finishProtocolError
    | some b =>
      if s.bidx = 19 then (s.count (.ended n)).finish .success .variableFrame 20 (orBit s.acc s.bidx b) false
      else { s.count (.ended n) with acc := orBit s.acc s.bidx b, bidx := s.bidx + 1, st := .dVfSpace }

/-- `D_VF_SPACE`: an inter-bit space, or the block-end wait at `bidx` 12 and 15 (spec/43_decoder.md R180, R182). -/
def State.stepVfSpace (act : Bool) (s : State) : State :=
  match measured act false s.limit s.cnt with
  | .cont => s.count .cont
  | .limit =>
    if s.bidx = 12 ∨ s.bidx = 15 then s.finish .success .variableFrame (s.bidx.zeroExtend 6) s.acc false
    else s.finishTimeout
  | .ended n => { s.count (.ended n) with st := .dVfMark }

/-- `decode_step` (spec/43_decoder.md R163): the rule of the decoder state `st`; in `IDLE` and `E_TX` it never runs. -/
def State.decodeStep (act : Bool) (s : State) : State :=
  match s.st with
  | .idle => s
  | .dWaitIdle => s.stepWaitIdle act
  | .dWaitMark => s.stepWaitMark act
  | .dHdrMark => s.stepHdrMark act
  | .dLfHdrSpace => s.stepLfHdrSpace act
  | .dLfMark => s.stepLfMark act
  | .dLfSpace => s.stepLfSpace act
  | .dLfTrail => s.stepLfTrail act
  | .dLfRptTrail => s.stepLfRptTrail act
  | .dVfHdrSpace => s.stepVfHdrSpace act
  | .dVfSpace => s.stepVfSpace act
  | .dVfMark => s.stepVfMark act
  | .eTx => s

/-- The acceptance action of a DECODE (spec/43_decoder.md R160). -/
def State.startDecode (s : State) (md : Bool) (t : Word) : State :=
  { (s.latchTimeout md t).setResult .none .longFrame 0 0 false with st := .dWaitIdle }

/-- `DEC t` (spec/43_decoder.md R190). -/
def execDec (t : Word) (s : State) : Host.Outcome State Fault Refusal := .next (s.startDecode false t)

/-- `DEC.INF` (spec/43_decoder.md R191); R160 latches the ignored `arg` too. -/
def execDecInf (a : Word) (s : State) : Host.Outcome State Fault Refusal := .next (s.startDecode true a)

end Sys2Proof.Machine
end

