-- ==== Sys2Proof/Machine/Encoder.lean ====
section
/-! DEFINITION. The Pulse Encoder: `encode_step` and the meanings of TX.LF and TX.VF (spec/42_encoder.md R145 to R147). The
waveform itself stands in Waveform.lean. -/

namespace Sys2Proof.Machine

/-- The waveform being sent (spec/42_encoder.md R145). -/
def State.txWave (s : State) : List Level := s.cfg.wave s.eproto s.epay

/-- `W[k]`. Past the waveform's end, where no rule reads it in a state a built block reaches, it is the OFF level
(DESIGN CHOICE, log 8). -/
def State.waveAt (s : State) (k : Nat) : Level := s.txWave.getD k (!s.cfg.txOnLevel)

/-- `encode_step()` (spec/42_encoder.md R145). -/
def State.encodeStep (s : State) : State :=
  if s.ek.toNat + 1 = s.txWave.length then
    s.releaseLine.complete .transmit
  else
    { s with ek := s.ek + 1, lineOut := s.waveAt (s.ek.toNat + 1) }

/-- The acceptance action of a TRANSMIT (spec/42_encoder.md R146, R147): latch, drive the first cycle, `st <- E_TX`. -/
def State.startTransmit (s : State) (pr : Protocol) (p : Word) : State :=
  { (s.latchPayload pr p).driveLine s.cfg.txOnLevel with st := .eTx }

/-- `TX.LF p` (spec/42_encoder.md R146). -/
def execTxLf (p : Word) (s : State) : Host.Outcome State Fault Refusal := .next (s.startTransmit .longFrame p)

/-- `TX.VF p` (spec/42_encoder.md R147). -/
def execTxVf (p : Word) (s : State) : Host.Outcome State Fault Refusal := .next (s.startTransmit .variableFrame p)

end Sys2Proof.Machine
end

