-- ==== Sys2Proof/Machine/Dispatch.lean ====
section
/-! DEFINITION. The acceptance action of each row of the opcode table (spec/40_commands.md R100, spec/30_encoding.md R78). -/

namespace Sys2Proof.Machine

def exec (i : Instr) (s : State) : Host.Outcome State Fault Refusal :=
  match i with
  | .nop => Sys2Proof.Machine.execNop s
  | .txLf p => Sys2Proof.Machine.execTxLf p s
  | .txVf p => Sys2Proof.Machine.execTxVf p s
  | .dec t => Sys2Proof.Machine.execDec t s
  | .decInf a => Sys2Proof.Machine.execDecInf a s
  | .rsvd => Sys2Proof.Machine.execRsvd s

end Sys2Proof.Machine
end

