-- ==== Sys2Proof/Machine/Edge.lean ====
section
/-! DEFINITION. The edge function (spec/40_commands.md R101): what one rising edge of `clk` does, given the input ports. -/

namespace Sys2Proof.Machine

/-- `accept(w)` (spec/40_commands.md R100): the acceptance action of the row that `w` selects. -/
def State.accept (w : CmdWord) (s : State) : Host.Outcome State Fault Refusal := exec (decode w) s

/-- A command is accepted at this edge (spec/40_commands.md R100). -/
def State.accepts (s : State) (p : InPorts) : Bool := !p.rst && decide (s.st = .idle) && p.cmdValid

/-- The state in which the one arm of the edge's `case` runs: synchroniser shifted, `done` cleared (R101). -/
def State.atEdge (s : State) (p : InPorts) : State := (s.shiftSync p.lineIn).clearDone

/-- One rising edge (spec/40_commands.md R101). The sample is the one before the shift (spec/10_state.md R24). -/
def State.edge (p : InPorts) (s : State) : Host.Outcome State Fault Refusal :=
  if p.rst then .next (s.shiftSync p.lineIn).applyReset
  else
    match s.st with
    | .idle => if p.cmdValid then (s.atEdge p).accept p.cmdWord else .next (s.atEdge p)
    | .eTx => .next (s.atEdge p).encodeStep
    | .dWaitIdle => .next ((s.atEdge p).decodeStep (s.act p.lineIn))
    | .dWaitMark => .next ((s.atEdge p).decodeStep (s.act p.lineIn))
    | .dHdrMark => .next ((s.atEdge p).decodeStep (s.act p.lineIn))
    | .dLfHdrSpace => .next ((s.atEdge p).decodeStep (s.act p.lineIn))
    | .dLfMark => .next ((s.atEdge p).decodeStep (s.act p.lineIn))
    | .dLfSpace => .next ((s.atEdge p).decodeStep (s.act p.lineIn))
    | .dLfTrail => .next ((s.atEdge p).decodeStep (s.act p.lineIn))
    | .dLfRptTrail => .next ((s.atEdge p).decodeStep (s.act p.lineIn))
    | .dVfHdrSpace => .next ((s.atEdge p).decodeStep (s.act p.lineIn))
    | .dVfSpace => .next ((s.atEdge p).decodeStep (s.act p.lineIn))
    | .dVfMark => .next ((s.atEdge p).decodeStep (s.act p.lineIn))

/-- `s` with the host offering the word `w` at the coming edge, with `rst = 0`; `line_in` and the edges after it stay. -/
def State.offer (s : State) (w : CmdWord) : State :=
  { s with inputs :=
      { rst := false, cmdValid := true, cmdWord := w, lineIn := s.nextPorts.lineIn } :: s.inputs.tail }

end Sys2Proof.Machine
end

