-- ==== Sys2Proof/Machine/Step.lean ====
section
/-! DEFINITION. One step of the machine: one rising edge of `clk` with the coming edge's inputs (spec/40_commands.md R101). -/

namespace Sys2Proof.Machine

/-- One rising edge. The inputs come from the state's list, or are a free draw (log 2). -/
def step (s : State) : Host.Outcome State Fault Refusal := s.consumePorts.edge s.nextPorts

/-- `s` with the word offered on the command port at the coming edge and the sequencer in `IDLE`, which is where the
block takes in a command (spec/40_commands.md R100, log 3). A word that is no 40-bit word changes nothing. -/
def State.withFetchWord (s : State) (nbits w : Nat) : State :=
  match tableWord nbits w with
  | some c => { s.offer c with st := .idle }
  | none => s

end Sys2Proof.Machine
end

