-- ==== Sys2Proof/Safety.lean ====
section
/-! DEFINITION. The terms claims use: what holds in every state a built block reaches (spec/10_state.md R22, R31, R35), the
coming edge, the sample stream of a decode (spec/43_decoder.md R161) and how a run of edges ends. -/

namespace Sys2Proof.Machine

/-! ### The coming edge -/

/-- The state in which the coming edge's one `case` arm runs (spec/40_commands.md R101): its inputs used up, the
synchroniser shifted, `done` cleared. -/
def State.begun (s : State) : State := s.consumePorts.atEdge s.nextPorts

/-- `act` at the coming edge (spec/10_state.md R24). -/
def State.seen (s : State) : Bool := s.act s.nextPorts.lineIn

/-- `u` at the end of a decode: the completion (spec/40_commands.md R104) and the five result registers
(spec/43_decoder.md R162), written out. -/
def State.ended (u : State) (o : ResOutcome) (p : Protocol) (c : BitVec 6) (v : Word) (r : Bool) : State :=
  { u with
    st := .idle, done := true, doneOp := .decode,
    resOutcome := o, resProtocol := p, resBitCount := c, resPayload := v, resIsRepeat := r }

/-- `u` at the end of a failed decode: an outcome and no frame (spec/43_decoder.md R162). -/
def State.endedFailed (u : State) (o : ResOutcome) : State := u.ended o .longFrame 0 0 false

/-- `l` classifies the ends of its windows as their symbols, and a length in none of them as no symbol (spec/43_decoder.md R196). -/
def ClassifiesItsEnds {σ : Type} (l : List (Window × σ)) : Prop :=
  (∀ e ∈ l, classify e.1.min l = some e.2 ∧ classify e.1.max l = some e.2) ∧
  ∀ n, (∀ e ∈ l, n < e.1.min ∨ e.1.max < n) → classify n l = none

/-! ### Waveforms, cycle by cycle -/

/-- From position `s`, `W` is a burst of `n` pulses of half-period `h`, each with its ON half first (spec/42_encoder.md R140). -/
def BurstAt (W : List Level) (on : Level) (s n h : Nat) : Prop :=
  ∀ k < 2 * n * h, W[s + k]? = some (if k / h % 2 = 0 then on else !on)

/-- From position `s`, `W` is a gap of `g` cycles (spec/42_encoder.md R140). -/
def GapAt (W : List Level) (on : Level) (s g : Nat) : Prop := ∀ k < g, W[s + k]? = some (!on)

/-- From position `s`, where `W` has a burst of `n` pulses of half-period `h` and then a gap of `g` cycles, `E` is active
exactly from the burst's first ON cycle to its last, both inclusive (spec/42_encoder.md R149). -/
def EnvelopeAt (E : List Bool) (W : List Level) (on : Level) (s n h g : Nat) : Prop :=
  ∀ k < 2 * n * h + g, ∃ a, E[s + k]? = some a ∧
    (a = true ↔ ∃ i j, i ≤ k ∧ k ≤ j ∧ j < 2 * n * h ∧ W[s + i]? = some on ∧ W[s + j]? = some on)

/-- The position at which segment `i` starts, where segment 0 starts at `first` and segment `i` has length `len i`. -/
def segmentStart (first : Nat) (len : Nat → Nat) : Nat → Nat
  | 0 => first
  | i + 1 => segmentStart first len i + len i

/-! ### Invariants -/

/-- The line registers (spec/10_state.md R22). -/
structure State.LineInv (s : State) : Prop where
  drivenIff : s.lineOe = true ↔ s.st = .eTx
  released  : s.lineOe = false → s.lineOut = !s.cfg.txOnLevel

/-- The Frame invariants (spec/10_state.md R31). -/
structure State.FrameInv (s : State) : Prop where
  rpt      : s.resOutcome = .success → s.resIsRepeat = true →
    s.resProtocol = .longFrame ∧ s.resBitCount = 0 ∧ s.resPayload = 0
  varLen   : s.resOutcome = .success → s.resProtocol = .variableFrame →
    (s.resBitCount = 12 ∨ s.resBitCount = 15 ∨ s.resBitCount = 20) ∧ s.resIsRepeat = false ∧
      ∀ i, s.resBitCount.toNat ≤ i → s.resPayload.getLsbD i = false
  long     : s.resOutcome = .success → s.resProtocol = .longFrame → s.resIsRepeat = false → s.resBitCount = 32
  failed   : s.resOutcome ≠ .success →
    s.resProtocol = .longFrame ∧ s.resBitCount = 0 ∧ s.resPayload = 0 ∧ s.resIsRepeat = false

/-- The counters never overflow (spec/10_state.md R35; `bidx` has 5 bits, so it never exceeds 31). In a measuring state the
run is shorter than its limit (spec/41_timing_windows.md R124). -/
structure State.CounterInv (s : State) : Prop where
  cntBound  : s.cnt + 1 ≤ s.cfg.maxLimit
  cntRange  : s.st.counts ≠ none → 1 ≤ s.cnt ∧ s.cnt < s.limit
  wcntRange : s.wcnt ≤ s.tmo
  wcntInf   : s.inf = true → s.wcnt = 0
  ekRange   : s.st = .eTx → s.ek.toNat + 1 ≤ s.txWave.length

/-- What the encoder drives in cycle `ek` (spec/42_encoder.md R144). -/
def State.EncoderInv (s : State) : Prop := s.st = .eTx → s.lineOut = s.waveAt s.ek.toNat

/-- `bidx` in the states that use it (spec/43_decoder.md R174, R181, R182). -/
def State.bidxOk (s : State) : Prop :=
  match s.st with
  | .dLfTrail => s.bidx = 31
  | .dVfMark => s.bidx.toNat ≤ 19
  | .dVfSpace => 1 ≤ s.bidx.toNat ∧ s.bidx.toNat ≤ 19
  | .dLfMark => True
  | .dLfSpace => True
  | .idle => True
  | .eTx => True
  | .dWaitIdle => s.bidx = 0
  | .dWaitMark => s.bidx = 0
  | .dHdrMark => s.bidx = 0
  | .dLfHdrSpace => s.bidx = 0
  | .dLfRptTrail => s.bidx = 0
  | .dVfHdrSpace => s.bidx = 0

/-- A decode in flight: no result is shown (spec/30_encoding.md R76), bits not yet classified are 0, and `dproto` names the
selected protocol (spec/43_decoder.md R160, R170). -/
structure State.DecoderInv (s : State) : Prop where
  noResult : s.st.isDecoder = true → s.resOutcome = .none
  bidx     : s.bidxOk
  accHigh  : s.st.isDecoder = true → s.st ≠ .dLfTrail → ∀ i, s.bidx.toNat ≤ i → s.acc.getLsbD i = false
  longSel  : s.st = .dLfHdrSpace ∨ s.st = .dLfMark ∨ s.st = .dLfSpace ∨ s.st = .dLfTrail ∨ s.st = .dLfRptTrail →
    s.dproto = .longFrame
  varSel   : s.st = .dVfHdrSpace ∨ s.st = .dVfMark ∨ s.st = .dVfSpace → s.dproto = .variableFrame

/-- What holds in every state that a block of a checked configuration reaches. -/
structure State.Inv (s : State) : Prop where
  cfgOk    : s.cfg.Ok
  syncLen  : s.sync.length = s.cfg.syncStages
  line     : s.LineInv
  frame    : s.FrameInv
  counters : s.CounterInv
  encoder  : s.EncoderInv
  decoder  : s.DecoderInv
  doneIdle : s.done = true → s.st = .idle

/-! ### Runs of edges -/

/-- The coming `n` edges are written down and none of them is a reset edge. -/
def State.NoReset (s : State) (n : Nat) : Prop :=
  n ≤ s.inputs.length ∧ ∀ p ∈ s.inputs.take n, p.rst = false

/-- The samples the coming written-down edges will read, as far as they are determined: the synchroniser's stages, oldest
first, then `line_in` (spec/43_decoder.md R161, spec/10_state.md R23, R24). -/
def State.pendingActs (s : State) : List Bool :=
  ((s.sync.reverse ++ s.inputs.map (·.lineIn)).take s.inputs.length).map (· == s.cfg.activeLevel)

/-- The coming edges read the samples `acts` and none of them is a reset edge. -/
def State.Sees (s : State) (acts : List Bool) : Prop :=
  s.NoReset acts.length ∧ s.pendingActs.take acts.length = acts

/-- The five result registers. -/
def State.Result (s : State) (o : ResOutcome) (p : Protocol) (c : BitVec 6) (v : Word) (r : Bool) : Prop :=
  s.resOutcome = o ∧ s.resProtocol = p ∧ s.resBitCount = c ∧ s.resPayload = v ∧ s.resIsRepeat = r

/-- A failed decode's result: the outcome, and no frame (spec/43_decoder.md R162). -/
def State.Failed (s : State) (o : ResOutcome) : Prop := s.Result o .longFrame 0 0 false

/-- From `s`, a decode in flight, the `n`-th edge is the one that calls `finish`, and `t` is the state after it. -/
structure State.DecodeEnds (s : State) (n : Nat) (t : State) : Prop where
  before : ∀ k < n, ∃ u, Sys2Proof.core.run k s = .next u ∧ u.st.isDecoder = true
  last   : Sys2Proof.core.run n s = .next t
  idle   : t.st = .idle
  done   : t.done = true
  doneOp : t.doneOp = .decode

/-- A line that is active for `a` samples (it was active from before), then idle for `b` (spec/43_decoder.md R166). -/
def waitRuns (a b : Nat) : List Bool := actRun a ++ idleRun b

/-- The runs of `n` LongFrame bits: mark `m i`, space `g i` (spec/43_decoder.md R176). -/
def lfBitRuns (n : Nat) (m g : Nat → Nat) : List Bool :=
  (List.range n).flatMap fun i => actRun (m i) ++ idleRun (g i)

/-- The runs of `n + 1` VariableFrame bits: mark `m 0`, then space `g i` and mark `m i` (spec/43_decoder.md R183). -/
def vfBitRuns (n : Nat) (m g : Nat → Nat) : List Bool :=
  actRun (m 0) ++ (List.range n).flatMap fun i => idleRun (g (i + 1)) ++ actRun (m (i + 1))

/-- The limit of the space before VariableFrame bit `i` (spec/41_timing_windows.md R125). -/
def State.vfSpaceLimit (s : State) (i : Nat) : Nat :=
  if i = 12 then s.cfg.vfBlkTo1 else if i = 15 then s.cfg.vfBlkTo2 else s.cfg.symLimit

end Sys2Proof.Machine
end

