-- ==== Sys2Proof/Certificates/Slice0/Obligations.lean ====
section
/-! DEFINITION. The statements for the provers, in the order of OBLIGATIONS.json. `s.begun` is the state in which the coming
edge's arm runs, `s.seen` the edge's `act` (Safety.lean). -/

open Sys2Proof Sys2Proof.Machine

/-! ### Encoding -/

/-- spec/30_encoding.md R70 to R73, R78, R81. -/
def Obligations.DecodeOfEncodeIsTheCommand : Prop :=
  ∀ i : Instr, decode (encode i) = i ∧ opField (encode i) = i.op.code ∧ modField (encode i) = i.mod ∧
    rsvdField (encode i) = 0#5 ∧ argField (encode i) = i.arg

/-- spec/30_encoding.md R74, R78, R79: a word means a command exactly when they agree on the bits the command reads. -/
def Obligations.WordMeansCommandOnItsReadBits : Prop :=
  ∀ (w : CmdWord) (i : Instr), decode w = i ↔ w &&& i.readMask = encode i

/-- spec/30_encoding.md R78. -/
def Obligations.ExactlyOneRowSelectsEachWord : Prop :=
  ∀ w : CmdWord, ∃ r ∈ opcodeTable, r.selects w = true ∧ r.mnemonic = (decode w).mnemonic ∧
    ∀ r' ∈ opcodeTable, r'.selects w = true → r' = r

/-- spec/30_encoding.md R72, R74: the reserved bits, and the other fields of NOP and RSVD, change no command. -/
def Obligations.IgnoredBitsChangeNoCommand : Prop :=
  ∀ (op : BitVec 2) (md md' : BitVec 1) (r r' : BitVec 5) (a a' : Word),
    decode (packWord op md r a) = decode (packWord op md r' a) ∧
    (op = 0b00#2 ∨ op = 0b11#2 → decode (packWord op md r a) = decode (packWord op md' r' a'))

/-- spec/30_encoding.md R72, spec/43_decoder.md R163, R167, R191: with `inf = 1` no edge's effect depends on `tmo`. -/
def Obligations.InfiniteDecodeNeverReadsItsTimeout : Prop :=
  ∀ (s t : State) (x : Word), s.inf = true → step s = .next t →
    ∃ y, step { s with tmo := x } = .next { t with tmo := y }

/-- Words of spec/30_encoding.md R81 and spec/95_test_vectors.md section 2.1. -/
def Obligations.WrittenWordsDecode : Prop :=
  decode 0x1234567801#40 = .txLf 0x12345678#32 ∧ decode 0x000000A505#40 = .txVf 0xA5#32 ∧
  decode 0x000003E802#40 = .dec 1000#32 ∧ decode 0x0000000006#40 = .decInf 0#32 ∧
  decode 0x0000000000#40 = .nop ∧ decode 0xFFFFFFFFFF#40 = .rsvd ∧ decode 0x0000000AFA#40 = .dec 10#32

/-- spec/10_state.md R28: `cmd_ready`, in a busy block and while `rst = 1` too. -/
def Obligations.ReadyExactlyInIdleWithoutReset : Prop :=
  ∀ (s : State) (rst : Bool), (s.outPorts rst).cmdReady = true ↔ s.st = .idle ∧ rst = false

/-- spec/30_encoding.md R75 to R77: the codes of `res_outcome`, `res_protocol` and `done_op` at the ports; the other register
ports show their registers (spec/10_state.md R21). -/
def Obligations.OutcomeCodesAtThePort : Prop :=
  ∀ (s : State) (rst : Bool),
    ((s.outPorts rst).resOutcome = 0b00#2 ↔ s.resOutcome = .none) ∧
    ((s.outPorts rst).resOutcome = 0b01#2 ↔ s.resOutcome = .success) ∧
    ((s.outPorts rst).resOutcome = 0b10#2 ↔ s.resOutcome = .timeout) ∧
    ((s.outPorts rst).resOutcome = 0b11#2 ↔ s.resOutcome = .protocolError) ∧
    ((s.outPorts rst).resProtocol = 0#1 ↔ s.resProtocol = .longFrame) ∧
    ((s.outPorts rst).resProtocol = 1#1 ↔ s.resProtocol = .variableFrame) ∧
    ((s.outPorts rst).doneOp = 0b00#2 ↔ s.doneOp = .nop) ∧
    ((s.outPorts rst).doneOp = 0b01#2 ↔ s.doneOp = .transmit) ∧
    ((s.outPorts rst).doneOp = 0b10#2 ↔ s.doneOp = .decode) ∧
    ((s.outPorts rst).doneOp = 0b11#2 ↔ s.doneOp = .reserved) ∧
    (s.outPorts rst).lineOut = s.lineOut ∧ (s.outPorts rst).lineOe = s.lineOe ∧ (s.outPorts rst).done = s.done ∧
    (s.outPorts rst).resBitCount = s.resBitCount ∧ (s.outPorts rst).resPayload = s.resPayload ∧
    (s.outPorts rst).resIsRepeat = s.resIsRepeat

/-! ### Edges -/

/-- spec/40_commands.md R100, R101: the edge that accepts a command runs it, after the synchroniser has shifted and `done`
is cleared. -/
def Obligations.StepRunsTheAcceptedCommand : Prop :=
  ∀ (s : State) (p : InPorts) (ps : List InPorts) (i : Instr),
    s.inputs = p :: ps → p.rst = false → s.st = .idle → p.cmdValid = true → decode p.cmdWord = i →
    step s = exec i { s with
      inputs := ps, now := s.now + 1, done := false, sync := (p.lineIn :: s.sync).take s.cfg.syncStages }

/-- spec/40_commands.md R101, spec/60_exceptions.md R233: an edge in `IDLE` at which no command is offered leaves the block in
`IDLE` and changes nothing but `done`, the synchroniser and the record of inputs. -/
def Obligations.IdleEdgeWithoutCommandDoesNothing : Prop :=
  ∀ s : State, s.nextPorts.rst = false → s.st = .idle → s.nextPorts.cmdValid = false →
    step s = .next { s with
      inputs := s.inputs.tail, now := s.now + 1, done := false,
      sync := (s.nextPorts.lineIn :: s.sync).take s.cfg.syncStages }

/-- spec/40_commands.md R100: an edge with `rst = 1` or outside `IDLE` reads neither `cmd_valid` nor `cmd_word`, and an edge
with `cmd_valid = 0` does not read `cmd_word`. -/
def Obligations.UnacceptedCommandIsNotRead : Prop :=
  ∀ (s : State) (p : InPorts) (ps : List InPorts) (v : Bool) (w : CmdWord),
    (p.rst = true ∨ s.st ≠ .idle →
      step { s with inputs := { p with cmdValid := v, cmdWord := w } :: ps } =
        step { s with inputs := p :: ps }) ∧
    (p.cmdValid = false →
      step { s with inputs := { p with cmdWord := w } :: ps } = step { s with inputs := p :: ps })

/-- spec/10_state.md R34 (with R23: the synchroniser is not reset, it keeps shifting). -/
def Obligations.ResetEdgeSetsEveryRegister : Prop :=
  ∀ s : State, s.nextPorts.rst = true → ∃ t, step s = .next t ∧
    t.st = .idle ∧ t.lineOut = !s.cfg.txOnLevel ∧ t.lineOe = false ∧ t.done = false ∧ t.doneOp.code = 0b00#2 ∧
    t.resOutcome.code = 0b00#2 ∧ t.resProtocol.code = 0#1 ∧ t.resBitCount = 0 ∧ t.resPayload = 0 ∧
    t.resIsRepeat = false ∧ t.cnt = 0 ∧ t.wcnt = 0 ∧ t.tmo = 0 ∧ t.inf = false ∧ t.bidx = 0 ∧ t.acc = 0 ∧
    t.dproto.code = 0#1 ∧ t.eproto.code = 0#1 ∧ t.epay = 0 ∧ t.ek = 0 ∧
    t.sync = (s.nextPorts.lineIn :: s.sync).take s.cfg.syncStages ∧ t.cfg = s.cfg

/-- spec/10_state.md R34, R35, spec/70_reset_and_hazards.md R243: every reset state of a checked configuration meets the
invariant, and so does `State.reset`, whose configuration EX is the model's choice (log 1). -/
def Obligations.ResetStatesMeetTheInvariant : Prop :=
  (∀ (c : Config) (sync : List Level), c.Ok → sync.length = c.syncStages → (State.resetOf c sync).Inv) ∧
    State.reset.Inv

/-- spec/60_exceptions.md R220, spec/30_encoding.md R79: no run of edges stops. -/
def Obligations.RunsNeverStop : Prop :=
  ∀ (n : Nat) (s : State), ∃ t, core.run n s = .next t

/-- spec/00_scope.md R7, spec/20_memory.md R59. -/
def Obligations.RunsKeepTheConfiguration : Prop :=
  ∀ (n : Nat) (s t : State), core.run n s = .next t → t.cfg = s.cfg

/-- spec/10_state.md R22: at reset and after every edge, whatever the inputs. -/
def Obligations.StepKeepsLineRegisters : Prop :=
  (∀ (c : Config) (sync : List Level), (State.resetOf c sync).LineInv) ∧
  ∀ s t : State, s.LineInv → step s = .next t → t.LineInv

/-- spec/10_state.md R22, R31, R35, spec/30_encoding.md R76, spec/42_encoder.md R144, spec/43_decoder.md R160: the invariant
holds after every edge, whatever the inputs. -/
def Obligations.StepKeepsTheInvariant : Prop :=
  ∀ s t : State, s.Inv → step s = .next t → t.Inv

/-- spec/10_state.md R30, spec/20_memory.md R56: only the acceptance of a DECODE, its completion and a reset write the
result registers. -/
def Obligations.OnlyDecodesWriteResults : Prop :=
  ∀ s t : State, step s = .next t → s.nextPorts.rst = false →
    (s.st.isDecoder = false →
      (s.accepts s.nextPorts = true → (decode s.nextPorts.cmdWord).op ≠ .decode) →
      t.Result s.resOutcome s.resProtocol s.resBitCount s.resPayload s.resIsRepeat) ∧
    (s.st.isDecoder = true → t.st.isDecoder = true →
      t.Result s.resOutcome s.resProtocol s.resBitCount s.resPayload s.resIsRepeat) ∧
    (s.accepts s.nextPorts = true → (decode s.nextPorts.cmdWord).op = .decode → t.Failed .none)

/-- spec/10_state.md R29: `done` is 1 exactly after an edge at which a command completes; `done_op` takes that command's
opcode there and keeps it otherwise. A reset edge clears both (R34). -/
def Obligations.DoneMarksCompletions : Prop :=
  ∀ s t : State, step s = .next t →
    (s.nextPorts.rst = true → t.done = false ∧ t.doneOp = .nop) ∧
    (s.nextPorts.rst = false → t.done = true → t.st = .idle ∧ t.cmdReady false = true ∧
      ((s.accepts s.nextPorts = true ∧ t.doneOp = (decode s.nextPorts.cmdWord).op ∧
          (t.doneOp = .nop ∨ t.doneOp = .reserved)) ∨
        (s.st = .eTx ∧ t.doneOp = .transmit) ∨ (s.st.isDecoder = true ∧ t.doneOp = .decode))) ∧
    (s.nextPorts.rst = false → t.done = false → t.doneOp = s.doneOp ∧ (s.st ≠ .idle → t.st ≠ .idle) ∧
      (s.accepts s.nextPorts = true → t.st ≠ .idle))

/-! ### The commands' acceptance actions -/

/-- spec/40_commands.md R102: every word with `op = 0b00` is a NOP, and a NOP only completes. -/
def Obligations.NopOnlyCompletes : Prop :=
  (∀ w : CmdWord, opField w = 0b00#2 → decode w = .nop) ∧
  ∀ s : State, s.st = .idle → exec .nop s = .next { s with done := true, doneOp := .nop }

/-- spec/40_commands.md R103: every word with `op = 0b11` is an RSVD, and an RSVD only completes. -/
def Obligations.RsvdOnlyCompletes : Prop :=
  (∀ w : CmdWord, opField w = 0b11#2 → decode w = .rsvd) ∧
  ∀ s : State, s.st = .idle → exec .rsvd s = .next { s with done := true, doneOp := .reserved }

/-- spec/42_encoder.md R146: the acceptance action; every other register keeps its value. -/
def Obligations.TxLfStartsTheWaveform : Prop :=
  ∀ (p : Word) (s : State), exec (.txLf p) s = .next { s with
    eproto := .longFrame, epay := p, ek := 0, st := .eTx, lineOe := true, lineOut := s.cfg.txOnLevel }

/-- spec/42_encoder.md R147: the acceptance action; every other register keeps its value. -/
def Obligations.TxVfStartsTheWaveform : Prop :=
  ∀ (p : Word) (s : State), exec (.txVf p) s = .next { s with
    eproto := .variableFrame, epay := p, ek := 0, st := .eTx, lineOe := true, lineOut := s.cfg.txOnLevel }

/-- spec/43_decoder.md R160, for `DEC` (`mod = 0`) and `DEC.INF` (`mod = 1`); every other register keeps its value. -/
def Obligations.DecodesStartTheWait : Prop :=
  ∀ (i : Instr) (arg : Word) (md : Bool) (s : State), (i = .dec arg ∧ md = false) ∨ (i = .decInf arg ∧ md = true) →
    exec i s = .next { s with
      st := .dWaitIdle, tmo := arg, inf := md, wcnt := 0, cnt := 0, bidx := 0, acc := 0, dproto := .longFrame,
      resOutcome := .none, resProtocol := .longFrame, resBitCount := 0, resPayload := 0, resIsRepeat := false }

/-! ### The encoder -/

/-- spec/42_encoder.md R145. -/
def Obligations.EncodeStepSendsTheWaveform : Prop :=
  ∀ (s : State) (W : List Level), s.st = .eTx → s.nextPorts.rst = false → W = s.cfg.wave s.eproto s.epay →
    (s.ek.toNat + 1 = W.length → step s = .next { s.begun with
      lineOut := !s.cfg.txOnLevel, lineOe := false, st := .idle, done := true, doneOp := .transmit }) ∧
    (∀ h : s.ek.toNat + 1 < W.length, step s = .next { s.begun with
      ek := s.ek + 1, lineOut := W[s.ek.toNat + 1] })

/-- spec/42_encoder.md R143. -/
def Obligations.WaveformLengths : Prop :=
  ∀ (c : Config) (p : Word) (k m : Nat),
    k = ((List.range 32).filter fun i => p.getLsbD i).length →
    m = ((List.range 12).filter fun i => p.getLsbD i).length →
    (c.waveLf p).length = 2 * c.lfH * (c.lfHdrPulses + 32 * c.lfBitPulses + c.lfTrailPulses)
      + c.lfHdrGap + k * c.lfGap1 + (32 - k) * c.lfGap0 ∧
    (c.waveVf p).length = 2 * c.vfH * (c.vfHdrPulses + m * c.vfPulses1 + (12 - m) * c.vfPulses0)
      + c.vfHdrGap + 12 * c.vfGap ∧
    (c.Ok → (c.waveLf p).length < 2 ^ 32 ∧ (c.waveVf p).length < 2 ^ 32)

/-- spec/42_encoder.md R140, R141: every level of the LongFrame waveform; `start i` is where bit `i`'s burst starts. -/
def Obligations.LongWaveformSendsItsBitsInOrder : Prop :=
  ∀ (c : Config) (p : Word) (W : List Level) (gap start : Nat → Nat), W = c.waveLf p →
    (∀ i, gap i = if p.getLsbD i then c.lfGap1 else c.lfGap0) →
    start = segmentStart (2 * c.lfHdrPulses * c.lfH + c.lfHdrGap) (fun i => 2 * c.lfBitPulses * c.lfH + gap i) →
    BurstAt W c.txOnLevel 0 c.lfHdrPulses c.lfH ∧ GapAt W c.txOnLevel (2 * c.lfHdrPulses * c.lfH) c.lfHdrGap ∧
    (∀ i < 32, BurstAt W c.txOnLevel (start i) c.lfBitPulses c.lfH ∧
      GapAt W c.txOnLevel (start i + 2 * c.lfBitPulses * c.lfH) (gap i)) ∧
    BurstAt W c.txOnLevel (start 32) c.lfTrailPulses c.lfH ∧ W.length = start 32 + 2 * c.lfTrailPulses * c.lfH

/-- spec/42_encoder.md R140, R142: every level of the VariableFrame waveform; `start i` is where bit `i`'s burst starts. -/
def Obligations.VariableWaveformSendsItsBitsInOrder : Prop :=
  ∀ (c : Config) (p : Word) (W : List Level) (pulses start : Nat → Nat), W = c.waveVf p →
    (∀ i, pulses i = if p.getLsbD i then c.vfPulses1 else c.vfPulses0) →
    start = segmentStart (2 * c.vfHdrPulses * c.vfH + c.vfHdrGap) (fun i => 2 * pulses i * c.vfH + c.vfGap) →
    BurstAt W c.txOnLevel 0 c.vfHdrPulses c.vfH ∧ GapAt W c.txOnLevel (2 * c.vfHdrPulses * c.vfH) c.vfHdrGap ∧
    (∀ i < 12, BurstAt W c.txOnLevel (start i) (pulses i) c.vfH ∧
      GapAt W c.txOnLevel (start i + 2 * pulses i * c.vfH) c.vfGap) ∧
    W.length = start 12

/-- spec/42_encoder.md R149: the envelopes, which the loopback statement reads, are those of the waveforms the encoder sends. -/
def Obligations.EnvelopesFollowTheWaveforms : Prop :=
  ∀ (c : Config) (p : Word) (gap pulses startL startV : Nat → Nat), c.Ok →
    (∀ i, gap i = if p.getLsbD i then c.lfGap1 else c.lfGap0) →
    (∀ i, pulses i = if p.getLsbD i then c.vfPulses1 else c.vfPulses0) →
    startL = segmentStart (2 * c.lfHdrPulses * c.lfH + c.lfHdrGap) (fun i => 2 * c.lfBitPulses * c.lfH + gap i) →
    startV = segmentStart (2 * c.vfHdrPulses * c.vfH + c.vfHdrGap) (fun i => 2 * pulses i * c.vfH + c.vfGap) →
    (EnvelopeAt (c.envLf p) (c.waveLf p) c.txOnLevel 0 c.lfHdrPulses c.lfH c.lfHdrGap ∧
      (∀ i < 32, EnvelopeAt (c.envLf p) (c.waveLf p) c.txOnLevel (startL i) c.lfBitPulses c.lfH (gap i)) ∧
      EnvelopeAt (c.envLf p) (c.waveLf p) c.txOnLevel (startL 32) c.lfTrailPulses c.lfH 0 ∧
      (c.envLf p).length = (c.waveLf p).length) ∧
    (EnvelopeAt (c.envVf p) (c.waveVf p) c.txOnLevel 0 c.vfHdrPulses c.vfH c.vfHdrGap ∧
      (∀ i < 12, EnvelopeAt (c.envVf p) (c.waveVf p) c.txOnLevel (startV i) (pulses i) c.vfH c.vfGap) ∧
      (c.envVf p).length = (c.waveVf p).length)

/-- spec/42_encoder.md R144, R148: `t` is the state in cycle 0, and with no reset edge the `L` cycles of the waveform
follow, then the completion; the result registers keep their values. -/
def Obligations.TransmitTakesTheWaveformsLength : Prop :=
  ∀ (s t : State) (i : Instr) (pr : Protocol) (p : Word) (W : List Level),
    (i = .txLf p ∧ pr = .longFrame) ∨ (i = .txVf p ∧ pr = .variableFrame) → W = s.cfg.wave pr p →
    s.cfg.Ok → exec i s = .next t → t.NoReset W.length →
    W.head? = some s.cfg.txOnLevel ∧
    (∀ (j : Nat) (h : j < W.length), ∃ u, core.run j t = .next u ∧ u.st = .eTx ∧ u.lineOe = true ∧
      u.lineOut = W[j] ∧ u.ek.toNat = j) ∧
    (∃ u, core.run W.length t = .next u ∧ u.lineOe = false ∧ u.lineOut = !s.cfg.txOnLevel ∧ u.done = true ∧
      u.doneOp.code = 0b01#2 ∧ u.cmdReady false = true ∧
      u.Result s.resOutcome s.resProtocol s.resBitCount s.resPayload s.resIsRepeat)

/-- spec/20_memory.md R54, spec/42_encoder.md R142, R146, R147: TX.VF sends bits 11:0 only; with equal gaps the LongFrame
waveform does not depend on the payload. -/
def Obligations.WaveformsReadTheirPayloadBitsOnly : Prop :=
  ∀ (c : Config) (p q : Word),
    ((∀ i < 12, p.getLsbD i = q.getLsbD i) → c.waveVf p = c.waveVf q) ∧
    (c.lfGap0 = c.lfGap1 → c.waveLf p = c.waveLf q)

/-- spec/42_encoder.md R145, R148: while the encoder runs, neither `line_in` nor the synchroniser changes anything but the
synchroniser. -/
def Obligations.EncoderNeverReadsTheLine : Prop :=
  ∀ (s t : State) (p : InPorts) (ps : List InPorts) (l : Level) (y : List Level),
    s.inputs = p :: ps → s.st = .eTx → step s = .next t →
    ∃ z, step { s with inputs := { p with lineIn := l } :: ps, sync := y } = .next { t with sync := z }

/-! ### The decoder, edge by edge -/

/-- spec/43_decoder.md R162. -/
def Obligations.FinishWritesTheOutcome : Prop :=
  ∀ (s : State) (o : ResOutcome) (p : Protocol) (c : BitVec 6) (v : Word) (r : Bool),
    s.finish .success p c v r = s.ended .success p c v r ∧ (o ≠ .success → s.finish o p c v r = s.endedFailed o)

/-- spec/41_timing_windows.md R121. -/
def Obligations.WindowsAreInclusive : Prop :=
  ∀ (w : Window) (n : Nat), w.holds n = true ↔ w.min ≤ n ∧ n ≤ w.max

/-- spec/41_timing_windows.md R123: no length lies in two windows of one classification, so its order is invisible. -/
def Obligations.ClassificationOrderIsInvisible : Prop :=
  ∀ (c : Config) (n : Nat), c.Ok →
    (c.wLfHdrMark.holds n && c.wVfHdrMark.holds n) = false ∧ (c.wLfHdrSpace.holds n && c.wLfRptSpace.holds n) = false ∧
    (c.wLfSpace0.holds n && c.wLfSpace1.holds n) = false ∧ (c.wVfMark0.holds n && c.wVfMark1.holds n) = false ∧
    classify n c.hdrMarkWindows = classify n c.hdrMarkWindows.reverse ∧
    classify n c.lfHdrSpaceWindows = classify n c.lfHdrSpaceWindows.reverse ∧
    classify n c.lfSpaceWindows = classify n c.lfSpaceWindows.reverse ∧
    classify n c.vfHdrSpaceWindows = classify n c.vfHdrSpaceWindows.reverse ∧
    classify n c.vfMarkWindows = classify n c.vfMarkWindows.reverse

/-- spec/43_decoder.md R196, spec/41_timing_windows.md R122, R126: the ends of every window of the five classifications. -/
def Obligations.WindowEndsClassify : Prop :=
  ∀ c : Config, c.Ok →
    ClassifiesItsEnds c.hdrMarkWindows ∧ ClassifiesItsEnds c.lfHdrSpaceWindows ∧
    ClassifiesItsEnds c.lfSpaceWindows ∧ ClassifiesItsEnds c.vfHdrSpaceWindows ∧
    ClassifiesItsEnds c.vfMarkWindows

/-- spec/41_timing_windows.md R127, spec/60_exceptions.md R222: the build fails exactly when a check fails. -/
def Obligations.BuildFailsExactlyOnAFailedCheck : Prop :=
  ∀ c : Config, c.configError = none ↔ c.Ok

/-- spec/41_timing_windows.md R124, R125: one edge of a measuring state, and a whole run below the limit. -/
def Obligations.MeasuringCountsTheRun : Prop :=
  ∀ (s : State) (L : Bool), s.cfg.Ok → s.st.counts = some L → s.nextPorts.rst = false →
    (s.seen = L → s.cnt + 1 < s.limit → step s = .next { s.begun with cnt := s.cnt + 1 }) ∧
    (s.seen = L → s.limit ≤ s.cnt + 1 →
      ∃ t, step s = .next t ∧ t.st = .idle ∧ t.done = true ∧ t.cnt = s.cnt) ∧
    (s.seen = (!L) → ∃ t, step s = .next t ∧ t.st ≠ s.st ∧ (t.st ≠ .idle → t.cnt = 1)) ∧
    (∀ k, s.cnt + k < s.limit → s.sync.length = s.cfg.syncStages → s.Sees (List.replicate k L) →
      ∃ u, core.run k s = .next u ∧ u.st = s.st ∧ u.cnt = s.cnt + k)

/-- spec/43_decoder.md R163 to R165. -/
def Obligations.WaitStatesCheckTheBudgetFirst : Prop :=
  ∀ s : State, s.cfg.Ok → s.nextPorts.rst = false → s.st = .dWaitIdle ∨ s.st = .dWaitMark →
    (s.inf = false → s.tmo ≤ s.wcnt → step s = .next (s.begun.endedFailed .timeout)) ∧
    (s.inf = true ∨ s.wcnt < s.tmo → ∃ w, w = (if s.inf then s.wcnt else s.wcnt + 1) ∧
      (s.st = .dWaitIdle → s.seen = true → step s = .next { s.begun with wcnt := w }) ∧
      (s.st = .dWaitIdle → s.seen = false → step s = .next { s.begun with wcnt := w, st := .dWaitMark }) ∧
      (s.st = .dWaitMark → s.seen = true →
        step s = .next { s.begun with wcnt := w, st := .dHdrMark, cnt := 1 }) ∧
      (s.st = .dWaitMark → s.seen = false → step s = .next { s.begun with wcnt := w }))

/-- spec/43_decoder.md R170. -/
def Obligations.HeaderMarkSelectsTheProtocol : Prop :=
  ∀ s : State, s.cfg.Ok → s.nextPorts.rst = false → s.st = .dHdrMark →
    (s.seen = true → s.cnt + 1 < s.cfg.symLimit → step s = .next { s.begun with cnt := s.cnt + 1 }) ∧
    (s.seen = true → s.cfg.symLimit ≤ s.cnt + 1 → step s = .next (s.begun.endedFailed .timeout)) ∧
    (s.seen = false → s.cfg.wLfHdrMark.holds s.cnt = true →
      step s = .next { s.begun with cnt := 1, dproto := .longFrame, st := .dLfHdrSpace }) ∧
    (s.seen = false → s.cfg.wLfHdrMark.holds s.cnt = false → s.cfg.wVfHdrMark.holds s.cnt = true →
      step s = .next { s.begun with cnt := 1, dproto := .variableFrame, st := .dVfHdrSpace }) ∧
    (s.seen = false → s.cfg.wLfHdrMark.holds s.cnt = false → s.cfg.wVfHdrMark.holds s.cnt = false →
      step s = .next (({ s.begun with cnt := 1 }).endedFailed .protocolError))

/-- spec/43_decoder.md R171. -/
def Obligations.LongHeaderSpacePicksDataOrRepeat : Prop :=
  ∀ s : State, s.cfg.Ok → s.nextPorts.rst = false → s.st = .dLfHdrSpace →
    (s.seen = false → s.cnt + 1 < s.cfg.symLimit → step s = .next { s.begun with cnt := s.cnt + 1 }) ∧
    (s.seen = false → s.cfg.symLimit ≤ s.cnt + 1 → step s = .next (s.begun.endedFailed .timeout)) ∧
    (s.seen = true → s.cfg.wLfHdrSpace.holds s.cnt = true →
      step s = .next { s.begun with cnt := 1, bidx := 0, st := .dLfMark }) ∧
    (s.seen = true → s.cfg.wLfHdrSpace.holds s.cnt = false → s.cfg.wLfRptSpace.holds s.cnt = true →
      step s = .next { s.begun with cnt := 1, st := .dLfRptTrail }) ∧
    (s.seen = true → s.cfg.wLfHdrSpace.holds s.cnt = false → s.cfg.wLfRptSpace.holds s.cnt = false →
      step s = .next (({ s.begun with cnt := 1 }).endedFailed .protocolError))

/-- spec/43_decoder.md R172, R173, R175: the marks that are measured and not classified. -/
def Obligations.UncheckedMarksEndTheirState : Prop :=
  ∀ s : State, s.cfg.Ok → s.nextPorts.rst = false →
    s.st = .dLfRptTrail ∨ s.st = .dLfMark ∨ s.st = .dLfTrail →
    (s.seen = true → s.cnt + 1 < s.cfg.symLimit → step s = .next { s.begun with cnt := s.cnt + 1 }) ∧
    (s.seen = true → s.cfg.symLimit ≤ s.cnt + 1 → step s = .next (s.begun.endedFailed .timeout)) ∧
    (s.seen = false → s.st = .dLfRptTrail →
      step s = .next (({ s.begun with cnt := 1 }).ended .success .longFrame 0 0 true)) ∧
    (s.seen = false → s.st = .dLfMark → step s = .next { s.begun with cnt := 1, st := .dLfSpace }) ∧
    (s.seen = false → s.st = .dLfTrail →
      step s = .next (({ s.begun with cnt := 1 }).ended .success .longFrame 32 s.acc false))

/-- spec/43_decoder.md R174; `b` is the classified bit. -/
def Obligations.LongBitSpaceGivesTheBit : Prop :=
  ∀ s : State, s.cfg.Ok → s.nextPorts.rst = false → s.st = .dLfSpace →
    (s.seen = false → s.cnt + 1 < s.cfg.symLimit → step s = .next { s.begun with cnt := s.cnt + 1 }) ∧
    (s.seen = false → s.cfg.symLimit ≤ s.cnt + 1 → step s = .next (s.begun.endedFailed .timeout)) ∧
    (∀ b, s.seen = true →
      (b = false ∧ s.cfg.wLfSpace0.holds s.cnt = true ∨
        b = true ∧ s.cfg.wLfSpace0.holds s.cnt = false ∧ s.cfg.wLfSpace1.holds s.cnt = true) →
      ∃ v : Word, (∀ i < 32, v.getLsbD i = if i = s.bidx.toNat then b else s.acc.getLsbD i) ∧
        (s.bidx = 31 → step s = .next { s.begun with cnt := 1, acc := v, st := .dLfTrail }) ∧
        (s.bidx ≠ 31 →
          step s = .next { s.begun with cnt := 1, acc := v, bidx := s.bidx + 1, st := .dLfMark })) ∧
    (s.seen = true → s.cfg.wLfSpace0.holds s.cnt = false → s.cfg.wLfSpace1.holds s.cnt = false →
      step s = .next (({ s.begun with cnt := 1 }).endedFailed .protocolError))

/-- spec/43_decoder.md R179. -/
def Obligations.VariableHeaderSpaceIsChecked : Prop :=
  ∀ s : State, s.cfg.Ok → s.nextPorts.rst = false → s.st = .dVfHdrSpace →
    (s.seen = false → s.cnt + 1 < s.cfg.symLimit → step s = .next { s.begun with cnt := s.cnt + 1 }) ∧
    (s.seen = false → s.cfg.symLimit ≤ s.cnt + 1 → step s = .next (s.begun.endedFailed .timeout)) ∧
    (s.seen = true → s.cfg.wVfHdrSpace.holds s.cnt = true →
      step s = .next { s.begun with cnt := 1, bidx := 0, st := .dVfMark }) ∧
    (s.seen = true → s.cfg.wVfHdrSpace.holds s.cnt = false →
      step s = .next (({ s.begun with cnt := 1 }).endedFailed .protocolError))

/-- spec/43_decoder.md R181; `b` is the classified bit. -/
def Obligations.VariableMarkGivesTheBit : Prop :=
  ∀ s : State, s.cfg.Ok → s.nextPorts.rst = false → s.st = .dVfMark →
    (s.seen = true → s.cnt + 1 < s.cfg.symLimit → step s = .next { s.begun with cnt := s.cnt + 1 }) ∧
    (s.seen = true → s.cfg.symLimit ≤ s.cnt + 1 → step s = .next (s.begun.endedFailed .timeout)) ∧
    (∀ b, s.seen = false →
      (b = false ∧ s.cfg.wVfMark0.holds s.cnt = true ∨
        b = true ∧ s.cfg.wVfMark0.holds s.cnt = false ∧ s.cfg.wVfMark1.holds s.cnt = true) →
      ∃ v : Word, (∀ i < 32, v.getLsbD i = (s.acc.getLsbD i || (decide (i = s.bidx.toNat) && b))) ∧
        (s.bidx = 19 →
          step s = .next (({ s.begun with cnt := 1 }).ended .success .variableFrame 20 v false)) ∧
        (s.bidx ≠ 19 →
          step s = .next { s.begun with cnt := 1, acc := v, bidx := s.bidx + 1, st := .dVfSpace })) ∧
    (s.seen = false → s.cfg.wVfMark0.holds s.cnt = false → s.cfg.wVfMark1.holds s.cnt = false →
      step s = .next (({ s.begun with cnt := 1 }).endedFailed .protocolError))

/-- spec/43_decoder.md R182; `lim` is the limit of R125. -/
def Obligations.VariableSpaceContinuesOrEndsTheFrame : Prop :=
  ∀ (s : State) (lim : Nat), s.cfg.Ok → s.nextPorts.rst = false → s.st = .dVfSpace →
    lim = (if s.bidx = 12 then s.cfg.vfBlkTo1 else if s.bidx = 15 then s.cfg.vfBlkTo2 else s.cfg.symLimit) →
    (s.seen = false → s.cnt + 1 < lim → step s = .next { s.begun with cnt := s.cnt + 1 }) ∧
    (s.seen = false → lim ≤ s.cnt + 1 → s.bidx = 12 →
      step s = .next (s.begun.ended .success .variableFrame 12 s.acc false)) ∧
    (s.seen = false → lim ≤ s.cnt + 1 → s.bidx = 15 →
      step s = .next (s.begun.ended .success .variableFrame 15 s.acc false)) ∧
    (s.seen = false → lim ≤ s.cnt + 1 → s.bidx ≠ 12 → s.bidx ≠ 15 →
      step s = .next (s.begun.endedFailed .timeout)) ∧
    (s.seen = true → step s = .next { s.begun with cnt := 1, st := .dVfMark })

/-- spec/60_exceptions.md R221: a decode ends in TIMEOUT or PROTOCOL_ERROR exactly at an edge that meets one of the causes
listed for that outcome, and no frame is recorded with it. -/
def Obligations.FailuresHaveTheListedCauses : Prop :=
  ∀ s t : State, step s = .next t → s.nextPorts.rst = false → s.st.isDecoder = true →
    (t.Failed .timeout ∧ t.done = true ↔
      ((s.st = .dWaitIdle ∨ s.st = .dWaitMark) ∧ s.inf = false ∧ s.tmo ≤ s.wcnt) ∨
      ((s.st = .dHdrMark ∨ s.st = .dLfRptTrail ∨ s.st = .dLfMark ∨ s.st = .dLfTrail ∨ s.st = .dVfMark) ∧
        s.seen = true ∧ s.cfg.symLimit ≤ s.cnt + 1) ∨
      ((s.st = .dLfHdrSpace ∨ s.st = .dLfSpace ∨ s.st = .dVfHdrSpace ∨
          (s.st = .dVfSpace ∧ s.bidx ≠ 12 ∧ s.bidx ≠ 15)) ∧
        s.seen = false ∧ s.cfg.symLimit ≤ s.cnt + 1)) ∧
    (t.Failed .protocolError ∧ t.done = true ↔
      (s.st = .dHdrMark ∧ s.seen = false ∧ s.cfg.wLfHdrMark.holds s.cnt = false ∧
        s.cfg.wVfHdrMark.holds s.cnt = false) ∨
      (s.st = .dLfHdrSpace ∧ s.seen = true ∧ s.cfg.wLfHdrSpace.holds s.cnt = false ∧
        s.cfg.wLfRptSpace.holds s.cnt = false) ∨
      (s.st = .dLfSpace ∧ s.seen = true ∧ s.cfg.wLfSpace0.holds s.cnt = false ∧
        s.cfg.wLfSpace1.holds s.cnt = false) ∨
      (s.st = .dVfHdrSpace ∧ s.seen = true ∧ s.cfg.wVfHdrSpace.holds s.cnt = false) ∨
      (s.st = .dVfMark ∧ s.seen = false ∧ s.cfg.wVfMark0.holds s.cnt = false ∧
        s.cfg.wVfMark1.holds s.cnt = false)) ∧
    (t.done = true → t.resOutcome ≠ .success → t.Failed t.resOutcome)

/-- spec/60_exceptions.md R225, spec/41_timing_windows.md R124: beyond its measurement a failing edge does only what `finish`
does. Only the end of a run writes `cnt`, as R124 says of every end (log 7). No port shows the decoder's registers and the next
DECODE's acceptance overwrites them. -/
def Obligations.FailuresChangeNothingElse : Prop :=
  ∀ s t : State, step s = .next t → s.nextPorts.rst = false → s.st.isDecoder = true →
    t.done = true → t.resOutcome ≠ .success →
    (t.resOutcome = .timeout ∧ t = s.begun.endedFailed .timeout ∨
      t.resOutcome = .protocolError ∧
        t = ({ s.begun with cnt := 1 % 2 ^ s.cfg.cntW }).endedFailed .protocolError) ∧
    ∀ (u : State) (ac : Word) (b : BitVec 5) (n : Nat) (w m : Word) (d : Protocol) (f : Bool),
      u = { t with acc := ac, bidx := b, cnt := n, wcnt := w, dproto := d, tmo := m, inf := f } →
      (∀ rst, u.outPorts rst = t.outPorts rst) ∧
      ∀ T, exec (.dec T) u = exec (.dec T) t ∧ exec (.decInf T) u = exec (.decInf T) t

/-! ### The decoder on the sample stream -/

/-- spec/10_state.md R23, R24, spec/43_decoder.md R161: the sample `n` edges on is the synchroniser stage that gets there, or
the `line_in` of `SYNC_STAGES` edges before. -/
def Obligations.SampleIsTheDelayedLine : Prop :=
  ∀ (s : State) (n : Nat), s.sync.length = s.cfg.syncStages → n < s.inputs.length →
    ∃ u, core.run n s = .next u ∧
      u.seen = ((s.sync.reverse ++ s.inputs.map (·.lineIn)).getD n false == s.cfg.activeLevel)

/-- spec/43_decoder.md R166. A header start at sample `a + b ≤ T - 1`; otherwise TIMEOUT at sample `T`; and a measuring state
no longer depends on the budget. -/
def Obligations.OverallTimeoutBoundsOnlyTheWait : Prop :=
  (∀ (s t : State) (T : Word) (a b : Nat), s.cfg.Ok → s.sync.length = s.cfg.syncStages →
    exec (.dec T) s = .next t →
    (1 ≤ b → a + b + 1 ≤ T.toNat → t.Sees (waitRuns a b ++ [true]) →
      (∃ u, core.run (a + b + 1) t = .next u ∧ u.st = .dHdrMark ∧ u.cnt = 1) ∧
      ∀ k ≤ a + b, ∃ u, core.run k t = .next u ∧ (u.st = .dWaitIdle ∨ u.st = .dWaitMark)) ∧
    (∀ x, a + b = T.toNat → t.Sees (waitRuns a b ++ [x]) →
      ∃ u, t.DecodeEnds (T.toNat + 1) u ∧ u.Failed .timeout)) ∧
  (∀ (s t : State) (x y : Word) (z : Bool), s.st.counts ≠ none → s.nextPorts.rst = false → step s = .next t →
    step { s with tmo := x, wcnt := y, inf := z } = .next { t with tmo := x, wcnt := y, inf := z })

/-- spec/43_decoder.md R167. -/
def Obligations.InfiniteWaitOutlastsAnyQuietLine : Prop :=
  ∀ (s t : State) (arg : Word) (a b : Nat), s.sync.length = s.cfg.syncStages → exec (.decInf arg) s = .next t →
    t.Sees (waitRuns a b) →
    ∃ u, core.run (a + b) t = .next u ∧ (b = 0 → u.st = .dWaitIdle) ∧ (1 ≤ b → u.st = .dWaitMark) ∧
      u.wcnt = 0 ∧ u.resOutcome = .none

/-- spec/43_decoder.md R194. -/
def Obligations.RepeatCodeIsDetected : Prop :=
  ∀ (s t : State) (T : Word) (k hm rs tl : Nat), s.cfg.Ok → s.sync.length = s.cfg.syncStages →
    exec (.dec T) s = .next t → 1 ≤ k → k + 1 ≤ T.toNat → s.cfg.wLfHdrMark.holds hm = true →
    s.cfg.wLfRptSpace.holds rs = true → 1 ≤ tl → tl < s.cfg.symLimit →
    t.Sees (idleRun k ++ actRun hm ++ idleRun rs ++ actRun tl ++ [false]) →
    ∃ u, t.DecodeEnds (k + hm + rs + tl + 1) u ∧ u.Result .success .longFrame 0 0 true

/-- spec/43_decoder.md R176, the data frame: from the edge after the header mark's first sample, a decode that reads the
samples `acts` and ends with them succeeds with 32 bits exactly when the runs are those of a LongFrame data frame. -/
def Obligations.LongFrameDataIffItsRuns : Prop :=
  ∀ (s : State) (acts : List Bool) (v : Word), s.Inv → s.st = .dHdrMark → s.cnt = 1 → s.Sees acts →
    ((∃ t, s.DecodeEnds acts.length t ∧ t.Result .success .longFrame 32 v false) ↔
      ∃ (hm hs tl : Nat) (m g : Nat → Nat),
        true :: acts = actRun hm ++ idleRun hs ++ lfBitRuns 32 m g ++ actRun tl ++ [false] ∧
        s.cfg.wLfHdrMark.holds hm = true ∧ s.cfg.wLfHdrSpace.holds hs = true ∧
        (∀ i < 32, 1 ≤ m i ∧ m i < s.cfg.symLimit ∧
          (s.cfg.wLfSpace0.holds (g i) = true ∨ s.cfg.wLfSpace1.holds (g i) = true) ∧
          v.getLsbD i = !s.cfg.wLfSpace0.holds (g i)) ∧
        1 ≤ tl ∧ tl < s.cfg.symLimit)

/-- spec/43_decoder.md R176, the repeat code. -/
def Obligations.RepeatCodeIffItsRuns : Prop :=
  ∀ (s : State) (acts : List Bool), s.Inv → s.st = .dHdrMark → s.cnt = 1 → s.Sees acts →
    ((∃ t, s.DecodeEnds acts.length t ∧ t.Result .success .longFrame 0 0 true) ↔
      ∃ hm rs tl : Nat,
        true :: acts = actRun hm ++ idleRun rs ++ actRun tl ++ [false] ∧
        s.cfg.wLfHdrMark.holds hm = true ∧ s.cfg.wLfRptSpace.holds rs = true ∧
        s.cfg.wLfHdrSpace.holds rs = false ∧ 1 ≤ tl ∧ tl < s.cfg.symLimit)

/-- spec/43_decoder.md R183, R195: from the edge after the header mark's first sample, a VariableFrame header and 12, 15 or 20
valid marks with valid spaces end the frame as told, at the edge R183 gives. -/
def Obligations.VariableFrameEndsAtItsBlocks : Prop :=
  ∀ (s : State) (hm hs n : Nat) (m g : Nat → Nat) (v : Word), s.Inv → s.st = .dHdrMark → s.cnt = 1 →
    s.cfg.wVfHdrMark.holds hm = true → s.cfg.wVfHdrSpace.holds hs = true →
    (∀ i < n, s.cfg.wVfMark0.holds (m i) = true ∨ s.cfg.wVfMark1.holds (m i) = true) →
    (∀ i, 1 ≤ i → i < n → 1 ≤ g i ∧ g i < s.vfSpaceLimit i) →
    (∀ i < 32, v.getLsbD i = (decide (i < n) && !s.cfg.wVfMark0.holds (m i))) →
    (n = 12 → s.Sees (actRun hm ++ idleRun hs ++ vfBitRuns 11 m g ++ idleRun s.cfg.vfBlkTo1).tail →
      ∃ t, s.DecodeEnds (hm + hs + (vfBitRuns 11 m g).length + s.cfg.vfBlkTo1 - 1) t ∧
        t.Result .success .variableFrame 12 v false) ∧
    (n = 15 → s.Sees (actRun hm ++ idleRun hs ++ vfBitRuns 14 m g ++ idleRun s.cfg.vfBlkTo2).tail →
      ∃ t, s.DecodeEnds (hm + hs + (vfBitRuns 14 m g).length + s.cfg.vfBlkTo2 - 1) t ∧
        t.Result .success .variableFrame 15 v false) ∧
    (n = 20 → s.Sees (actRun hm ++ idleRun hs ++ vfBitRuns 19 m g ++ [false]).tail →
      ∃ t, s.DecodeEnds (hm + hs + (vfBitRuns 19 m g).length) t ∧
        t.Result .success .variableFrame 20 v false)

/-- spec/43_decoder.md R193: a loopback-consistent configuration decodes its own frames; the LongFrame decode ends at the first
idle sample of the closing burst's envelope, the VariableFrame decode `VF_BLK_TO1` idle samples after the last mark. -/
def Obligations.LoopbackRoundTrips : Prop :=
  ∀ (s t : State) (T : Word) (k tail : Nat) (p : Word), s.cfg.Ok → s.cfg.LoopbackConsistent →
    s.sync.length = s.cfg.syncStages → exec (.dec T) s = .next t → 1 ≤ k → k + 1 ≤ T.toNat →
    (t.Sees (idleRun k ++ s.cfg.envLf p ++ idleRun tail) →
      ∃ u, t.DecodeEnds (k + (s.cfg.envLf p).length + 1 - s.cfg.lfH) u ∧
        u.Result .success .longFrame 32 p false) ∧
    (s.cfg.vfBlkTo1 ≤ tail → t.Sees (idleRun k ++ s.cfg.envVf p ++ idleRun tail) →
      ∃ u, t.DecodeEnds (k + (s.cfg.envVf p).length + s.cfg.vfBlkTo1 - (s.cfg.vfH + s.cfg.vfGap)) u ∧
        u.Result .success .variableFrame 12 (p &&& 0xFFF#32) false)

/-- spec/43_decoder.md R197. -/
def Obligations.NoHeaderFails : Prop :=
  ∀ (s t : State) (T : Word) (a b : Nat), s.cfg.Ok → s.sync.length = s.cfg.syncStages →
    exec (.dec T) s = .next t →
    (a + b = T.toNat + 1 → t.Sees (waitRuns a b) → ∃ u, t.DecodeEnds (T.toNat + 1) u ∧ u.Failed .timeout) ∧
    (∀ n, 1 ≤ b → a + b + 1 ≤ T.toNat → 1 ≤ n → n < s.cfg.symLimit → s.cfg.wLfHdrMark.holds n = false →
      s.cfg.wVfHdrMark.holds n = false → t.Sees (waitRuns a b ++ actRun n ++ [false]) →
      ∃ u, t.DecodeEnds (a + b + n + 1) u ∧ u.Failed .protocolError)

/-- spec/43_decoder.md R198: whatever was decoded before, a DEC on an idle line leaves the same state. -/
def Obligations.IdleLineDecodesAreIndependent : Prop :=
  ∀ (s t : State) (T : Word), s.sync.length = s.cfg.syncStages → exec (.dec T) s = .next t →
    t.Sees (idleRun (T.toNat + 1)) →
    ∃ u, t.DecodeEnds (T.toNat + 1) u ∧ u.st = .idle ∧ u.Failed .timeout ∧ u.acc = 0 ∧ u.bidx = 0 ∧
      u.cnt = 0 ∧ u.dproto = .longFrame ∧ u.tmo = T ∧ u.wcnt = T ∧ u.inf = false

/-- spec/43_decoder.md R192: two decodes with the same command, configuration and samples end at the same edge with the same
result, whatever else their states hold. -/
def Obligations.DecodesDependOnlyOnTheirSamples : Prop :=
  ∀ (s s' t t' u : State) (i : Instr) (acts : List Bool), i.op = .decode → s.cfg = s'.cfg →
    s.sync.length = s.cfg.syncStages → s'.sync.length = s'.cfg.syncStages →
    exec i s = .next t → exec i s' = .next t' → t.Sees acts → t'.Sees acts → t.DecodeEnds acts.length u →
    ∃ u', t'.DecodeEnds acts.length u' ∧
      u'.Result u.resOutcome u.resProtocol u.resBitCount u.resPayload u.resIsRepeat

/-- spec/70_reset_and_hazards.md R247: a decode that measures a run ends within a bounded number of edges. The longest frame
has 67 runs (header mark and space, 32 marks and spaces, a trailing mark). -/
def Obligations.EveryFrameEndsWithinABound : Prop :=
  ∀ s : State, s.Inv → s.st.counts ≠ none → s.NoReset (67 * s.cfg.maxLimit) →
    ∃ n ≤ 67 * s.cfg.maxLimit, ∃ t, s.DecodeEnds n t
end

