-- ==== Sys2Proof/Laws/State.lean ====
section
/-! SUPPORT. One lemma per field of `State` per named update, true by computation: no later proof unfolds a record update. -/

namespace Sys2Proof.Machine.State

/-! ### `consumePorts` -/

@[simp] theorem consumePorts_cfg (s : State) : s.consumePorts.cfg = s.cfg := rfl
@[simp] theorem consumePorts_st (s : State) : s.consumePorts.st = s.st := rfl
@[simp] theorem consumePorts_lineOut (s : State) : s.consumePorts.lineOut = s.lineOut := rfl
@[simp] theorem consumePorts_lineOe (s : State) : s.consumePorts.lineOe = s.lineOe := rfl
@[simp] theorem consumePorts_sync (s : State) : s.consumePorts.sync = s.sync := rfl
@[simp] theorem consumePorts_cnt (s : State) : s.consumePorts.cnt = s.cnt := rfl
@[simp] theorem consumePorts_wcnt (s : State) : s.consumePorts.wcnt = s.wcnt := rfl
@[simp] theorem consumePorts_tmo (s : State) : s.consumePorts.tmo = s.tmo := rfl
@[simp] theorem consumePorts_inf (s : State) : s.consumePorts.inf = s.inf := rfl
@[simp] theorem consumePorts_bidx (s : State) : s.consumePorts.bidx = s.bidx := rfl
@[simp] theorem consumePorts_acc (s : State) : s.consumePorts.acc = s.acc := rfl
@[simp] theorem consumePorts_dproto (s : State) : s.consumePorts.dproto = s.dproto := rfl
@[simp] theorem consumePorts_eproto (s : State) : s.consumePorts.eproto = s.eproto := rfl
@[simp] theorem consumePorts_epay (s : State) : s.consumePorts.epay = s.epay := rfl
@[simp] theorem consumePorts_ek (s : State) : s.consumePorts.ek = s.ek := rfl
@[simp] theorem consumePorts_done (s : State) : s.consumePorts.done = s.done := rfl
@[simp] theorem consumePorts_doneOp (s : State) : s.consumePorts.doneOp = s.doneOp := rfl
@[simp] theorem consumePorts_resOutcome (s : State) : s.consumePorts.resOutcome = s.resOutcome := rfl
@[simp] theorem consumePorts_resProtocol (s : State) : s.consumePorts.resProtocol = s.resProtocol := rfl
@[simp] theorem consumePorts_resBitCount (s : State) : s.consumePorts.resBitCount = s.resBitCount := rfl
@[simp] theorem consumePorts_resPayload (s : State) : s.consumePorts.resPayload = s.resPayload := rfl
@[simp] theorem consumePorts_resIsRepeat (s : State) : s.consumePorts.resIsRepeat = s.resIsRepeat := rfl
@[simp] theorem consumePorts_inputs (s : State) : s.consumePorts.inputs = s.inputs.tail := rfl
@[simp] theorem consumePorts_now (s : State) : s.consumePorts.now = s.now + 1 := rfl

/-! ### `shiftSync` (R23) -/

@[simp] theorem shiftSync_cfg (s : State) (l : Level) : (s.shiftSync l).cfg = s.cfg := rfl
@[simp] theorem shiftSync_st (s : State) (l : Level) : (s.shiftSync l).st = s.st := rfl
@[simp] theorem shiftSync_lineOut (s : State) (l : Level) : (s.shiftSync l).lineOut = s.lineOut := rfl
@[simp] theorem shiftSync_lineOe (s : State) (l : Level) : (s.shiftSync l).lineOe = s.lineOe := rfl
@[simp] theorem shiftSync_sync (s : State) (l : Level) : (s.shiftSync l).sync = (l :: s.sync).take s.cfg.syncStages := rfl
@[simp] theorem shiftSync_cnt (s : State) (l : Level) : (s.shiftSync l).cnt = s.cnt := rfl
@[simp] theorem shiftSync_wcnt (s : State) (l : Level) : (s.shiftSync l).wcnt = s.wcnt := rfl
@[simp] theorem shiftSync_tmo (s : State) (l : Level) : (s.shiftSync l).tmo = s.tmo := rfl
@[simp] theorem shiftSync_inf (s : State) (l : Level) : (s.shiftSync l).inf = s.inf := rfl
@[simp] theorem shiftSync_bidx (s : State) (l : Level) : (s.shiftSync l).bidx = s.bidx := rfl
@[simp] theorem shiftSync_acc (s : State) (l : Level) : (s.shiftSync l).acc = s.acc := rfl
@[simp] theorem shiftSync_dproto (s : State) (l : Level) : (s.shiftSync l).dproto = s.dproto := rfl
@[simp] theorem shiftSync_eproto (s : State) (l : Level) : (s.shiftSync l).eproto = s.eproto := rfl
@[simp] theorem shiftSync_epay (s : State) (l : Level) : (s.shiftSync l).epay = s.epay := rfl
@[simp] theorem shiftSync_ek (s : State) (l : Level) : (s.shiftSync l).ek = s.ek := rfl
@[simp] theorem shiftSync_done (s : State) (l : Level) : (s.shiftSync l).done = s.done := rfl
@[simp] theorem shiftSync_doneOp (s : State) (l : Level) : (s.shiftSync l).doneOp = s.doneOp := rfl
@[simp] theorem shiftSync_resOutcome (s : State) (l : Level) : (s.shiftSync l).resOutcome = s.resOutcome := rfl
@[simp] theorem shiftSync_resProtocol (s : State) (l : Level) : (s.shiftSync l).resProtocol = s.resProtocol := rfl
@[simp] theorem shiftSync_resBitCount (s : State) (l : Level) : (s.shiftSync l).resBitCount = s.resBitCount := rfl
@[simp] theorem shiftSync_resPayload (s : State) (l : Level) : (s.shiftSync l).resPayload = s.resPayload := rfl
@[simp] theorem shiftSync_resIsRepeat (s : State) (l : Level) : (s.shiftSync l).resIsRepeat = s.resIsRepeat := rfl
@[simp] theorem shiftSync_inputs (s : State) (l : Level) : (s.shiftSync l).inputs = s.inputs := rfl
@[simp] theorem shiftSync_now (s : State) (l : Level) : (s.shiftSync l).now = s.now := rfl

/-! ### `clearDone` (R101) -/

@[simp] theorem clearDone_cfg (s : State) : s.clearDone.cfg = s.cfg := rfl
@[simp] theorem clearDone_st (s : State) : s.clearDone.st = s.st := rfl
@[simp] theorem clearDone_lineOut (s : State) : s.clearDone.lineOut = s.lineOut := rfl
@[simp] theorem clearDone_lineOe (s : State) : s.clearDone.lineOe = s.lineOe := rfl
@[simp] theorem clearDone_sync (s : State) : s.clearDone.sync = s.sync := rfl
@[simp] theorem clearDone_cnt (s : State) : s.clearDone.cnt = s.cnt := rfl
@[simp] theorem clearDone_wcnt (s : State) : s.clearDone.wcnt = s.wcnt := rfl
@[simp] theorem clearDone_tmo (s : State) : s.clearDone.tmo = s.tmo := rfl
@[simp] theorem clearDone_inf (s : State) : s.clearDone.inf = s.inf := rfl
@[simp] theorem clearDone_bidx (s : State) : s.clearDone.bidx = s.bidx := rfl
@[simp] theorem clearDone_acc (s : State) : s.clearDone.acc = s.acc := rfl
@[simp] theorem clearDone_dproto (s : State) : s.clearDone.dproto = s.dproto := rfl
@[simp] theorem clearDone_eproto (s : State) : s.clearDone.eproto = s.eproto := rfl
@[simp] theorem clearDone_epay (s : State) : s.clearDone.epay = s.epay := rfl
@[simp] theorem clearDone_ek (s : State) : s.clearDone.ek = s.ek := rfl
@[simp] theorem clearDone_done (s : State) : s.clearDone.done = false := rfl
@[simp] theorem clearDone_doneOp (s : State) : s.clearDone.doneOp = s.doneOp := rfl
@[simp] theorem clearDone_resOutcome (s : State) : s.clearDone.resOutcome = s.resOutcome := rfl
@[simp] theorem clearDone_resProtocol (s : State) : s.clearDone.resProtocol = s.resProtocol := rfl
@[simp] theorem clearDone_resBitCount (s : State) : s.clearDone.resBitCount = s.resBitCount := rfl
@[simp] theorem clearDone_resPayload (s : State) : s.clearDone.resPayload = s.resPayload := rfl
@[simp] theorem clearDone_resIsRepeat (s : State) : s.clearDone.resIsRepeat = s.resIsRepeat := rfl
@[simp] theorem clearDone_inputs (s : State) : s.clearDone.inputs = s.inputs := rfl
@[simp] theorem clearDone_now (s : State) : s.clearDone.now = s.now := rfl

/-! ### The coming edge: `begun` -/

@[simp] theorem begun_cfg (s : State) : s.begun.cfg = s.cfg := rfl
@[simp] theorem begun_st (s : State) : s.begun.st = s.st := rfl
@[simp] theorem begun_lineOut (s : State) : s.begun.lineOut = s.lineOut := rfl
@[simp] theorem begun_lineOe (s : State) : s.begun.lineOe = s.lineOe := rfl
@[simp] theorem begun_sync (s : State) : s.begun.sync = (s.nextPorts.lineIn :: s.sync).take s.cfg.syncStages := rfl
@[simp] theorem begun_cnt (s : State) : s.begun.cnt = s.cnt := rfl
@[simp] theorem begun_wcnt (s : State) : s.begun.wcnt = s.wcnt := rfl
@[simp] theorem begun_tmo (s : State) : s.begun.tmo = s.tmo := rfl
@[simp] theorem begun_inf (s : State) : s.begun.inf = s.inf := rfl
@[simp] theorem begun_bidx (s : State) : s.begun.bidx = s.bidx := rfl
@[simp] theorem begun_acc (s : State) : s.begun.acc = s.acc := rfl
@[simp] theorem begun_dproto (s : State) : s.begun.dproto = s.dproto := rfl
@[simp] theorem begun_eproto (s : State) : s.begun.eproto = s.eproto := rfl
@[simp] theorem begun_epay (s : State) : s.begun.epay = s.epay := rfl
@[simp] theorem begun_ek (s : State) : s.begun.ek = s.ek := rfl
@[simp] theorem begun_done (s : State) : s.begun.done = false := rfl
@[simp] theorem begun_doneOp (s : State) : s.begun.doneOp = s.doneOp := rfl
@[simp] theorem begun_resOutcome (s : State) : s.begun.resOutcome = s.resOutcome := rfl
@[simp] theorem begun_resProtocol (s : State) : s.begun.resProtocol = s.resProtocol := rfl
@[simp] theorem begun_resBitCount (s : State) : s.begun.resBitCount = s.resBitCount := rfl
@[simp] theorem begun_resPayload (s : State) : s.begun.resPayload = s.resPayload := rfl
@[simp] theorem begun_resIsRepeat (s : State) : s.begun.resIsRepeat = s.resIsRepeat := rfl
@[simp] theorem begun_inputs (s : State) : s.begun.inputs = s.inputs.tail := rfl
@[simp] theorem begun_now (s : State) : s.begun.now = s.now + 1 := rfl

/-! ### The line registers (R22) -/

@[simp] theorem driveLine_cfg (s : State) (l : Level) : (s.driveLine l).cfg = s.cfg := rfl
@[simp] theorem driveLine_st (s : State) (l : Level) : (s.driveLine l).st = s.st := rfl
@[simp] theorem driveLine_lineOut (s : State) (l : Level) : (s.driveLine l).lineOut = l := rfl
@[simp] theorem driveLine_lineOe (s : State) (l : Level) : (s.driveLine l).lineOe = true := rfl
@[simp] theorem driveLine_sync (s : State) (l : Level) : (s.driveLine l).sync = s.sync := rfl
@[simp] theorem driveLine_cnt (s : State) (l : Level) : (s.driveLine l).cnt = s.cnt := rfl
@[simp] theorem driveLine_wcnt (s : State) (l : Level) : (s.driveLine l).wcnt = s.wcnt := rfl
@[simp] theorem driveLine_tmo (s : State) (l : Level) : (s.driveLine l).tmo = s.tmo := rfl
@[simp] theorem driveLine_inf (s : State) (l : Level) : (s.driveLine l).inf = s.inf := rfl
@[simp] theorem driveLine_bidx (s : State) (l : Level) : (s.driveLine l).bidx = s.bidx := rfl
@[simp] theorem driveLine_acc (s : State) (l : Level) : (s.driveLine l).acc = s.acc := rfl
@[simp] theorem driveLine_dproto (s : State) (l : Level) : (s.driveLine l).dproto = s.dproto := rfl
@[simp] theorem driveLine_eproto (s : State) (l : Level) : (s.driveLine l).eproto = s.eproto := rfl
@[simp] theorem driveLine_epay (s : State) (l : Level) : (s.driveLine l).epay = s.epay := rfl
@[simp] theorem driveLine_ek (s : State) (l : Level) : (s.driveLine l).ek = s.ek := rfl
@[simp] theorem driveLine_done (s : State) (l : Level) : (s.driveLine l).done = s.done := rfl
@[simp] theorem driveLine_doneOp (s : State) (l : Level) : (s.driveLine l).doneOp = s.doneOp := rfl
@[simp] theorem driveLine_resOutcome (s : State) (l : Level) : (s.driveLine l).resOutcome = s.resOutcome := rfl
@[simp] theorem driveLine_resProtocol (s : State) (l : Level) : (s.driveLine l).resProtocol = s.resProtocol := rfl
@[simp] theorem driveLine_resBitCount (s : State) (l : Level) : (s.driveLine l).resBitCount = s.resBitCount := rfl
@[simp] theorem driveLine_resPayload (s : State) (l : Level) : (s.driveLine l).resPayload = s.resPayload := rfl
@[simp] theorem driveLine_resIsRepeat (s : State) (l : Level) : (s.driveLine l).resIsRepeat = s.resIsRepeat := rfl
@[simp] theorem driveLine_inputs (s : State) (l : Level) : (s.driveLine l).inputs = s.inputs := rfl
@[simp] theorem driveLine_now (s : State) (l : Level) : (s.driveLine l).now = s.now := rfl
@[simp] theorem releaseLine_cfg (s : State) : s.releaseLine.cfg = s.cfg := rfl
@[simp] theorem releaseLine_st (s : State) : s.releaseLine.st = s.st := rfl
@[simp] theorem releaseLine_lineOut (s : State) : s.releaseLine.lineOut = !s.cfg.txOnLevel := rfl
@[simp] theorem releaseLine_lineOe (s : State) : s.releaseLine.lineOe = false := rfl
@[simp] theorem releaseLine_sync (s : State) : s.releaseLine.sync = s.sync := rfl
@[simp] theorem releaseLine_cnt (s : State) : s.releaseLine.cnt = s.cnt := rfl
@[simp] theorem releaseLine_wcnt (s : State) : s.releaseLine.wcnt = s.wcnt := rfl
@[simp] theorem releaseLine_tmo (s : State) : s.releaseLine.tmo = s.tmo := rfl
@[simp] theorem releaseLine_inf (s : State) : s.releaseLine.inf = s.inf := rfl
@[simp] theorem releaseLine_bidx (s : State) : s.releaseLine.bidx = s.bidx := rfl
@[simp] theorem releaseLine_acc (s : State) : s.releaseLine.acc = s.acc := rfl
@[simp] theorem releaseLine_dproto (s : State) : s.releaseLine.dproto = s.dproto := rfl
@[simp] theorem releaseLine_eproto (s : State) : s.releaseLine.eproto = s.eproto := rfl
@[simp] theorem releaseLine_epay (s : State) : s.releaseLine.epay = s.epay := rfl
@[simp] theorem releaseLine_ek (s : State) : s.releaseLine.ek = s.ek := rfl
@[simp] theorem releaseLine_done (s : State) : s.releaseLine.done = s.done := rfl
@[simp] theorem releaseLine_doneOp (s : State) : s.releaseLine.doneOp = s.doneOp := rfl
@[simp] theorem releaseLine_resOutcome (s : State) : s.releaseLine.resOutcome = s.resOutcome := rfl
@[simp] theorem releaseLine_resProtocol (s : State) : s.releaseLine.resProtocol = s.resProtocol := rfl
@[simp] theorem releaseLine_resBitCount (s : State) : s.releaseLine.resBitCount = s.resBitCount := rfl
@[simp] theorem releaseLine_resPayload (s : State) : s.releaseLine.resPayload = s.resPayload := rfl
@[simp] theorem releaseLine_resIsRepeat (s : State) : s.releaseLine.resIsRepeat = s.resIsRepeat := rfl
@[simp] theorem releaseLine_inputs (s : State) : s.releaseLine.inputs = s.inputs := rfl
@[simp] theorem releaseLine_now (s : State) : s.releaseLine.now = s.now := rfl

/-! ### A reset edge (R34, R240) -/

@[simp] theorem applyReset_cfg (s : State) : s.applyReset.cfg = s.cfg := rfl
@[simp] theorem applyReset_st (s : State) : s.applyReset.st = .idle := rfl
@[simp] theorem applyReset_lineOut (s : State) : s.applyReset.lineOut = !s.cfg.txOnLevel := rfl
@[simp] theorem applyReset_lineOe (s : State) : s.applyReset.lineOe = false := rfl
@[simp] theorem applyReset_sync (s : State) : s.applyReset.sync = s.sync := rfl
@[simp] theorem applyReset_cnt (s : State) : s.applyReset.cnt = 0 := rfl
@[simp] theorem applyReset_wcnt (s : State) : s.applyReset.wcnt = 0 := rfl
@[simp] theorem applyReset_tmo (s : State) : s.applyReset.tmo = 0 := rfl
@[simp] theorem applyReset_inf (s : State) : s.applyReset.inf = false := rfl
@[simp] theorem applyReset_bidx (s : State) : s.applyReset.bidx = 0 := rfl
@[simp] theorem applyReset_acc (s : State) : s.applyReset.acc = 0 := rfl
@[simp] theorem applyReset_dproto (s : State) : s.applyReset.dproto = .longFrame := rfl
@[simp] theorem applyReset_eproto (s : State) : s.applyReset.eproto = .longFrame := rfl
@[simp] theorem applyReset_epay (s : State) : s.applyReset.epay = 0 := rfl
@[simp] theorem applyReset_ek (s : State) : s.applyReset.ek = 0 := rfl
@[simp] theorem applyReset_done (s : State) : s.applyReset.done = false := rfl
@[simp] theorem applyReset_doneOp (s : State) : s.applyReset.doneOp = .nop := rfl
@[simp] theorem applyReset_resOutcome (s : State) : s.applyReset.resOutcome = .none := rfl
@[simp] theorem applyReset_resProtocol (s : State) : s.applyReset.resProtocol = .longFrame := rfl
@[simp] theorem applyReset_resBitCount (s : State) : s.applyReset.resBitCount = 0 := rfl
@[simp] theorem applyReset_resPayload (s : State) : s.applyReset.resPayload = 0 := rfl
@[simp] theorem applyReset_resIsRepeat (s : State) : s.applyReset.resIsRepeat = false := rfl
@[simp] theorem applyReset_inputs (s : State) : s.applyReset.inputs = s.inputs := rfl
@[simp] theorem applyReset_now (s : State) : s.applyReset.now = s.now := rfl

/-! ### Completion and results (R104, R162) -/

@[simp] theorem complete_cfg (s : State) (op : Op) : (s.complete op).cfg = s.cfg := rfl
@[simp] theorem complete_st (s : State) (op : Op) : (s.complete op).st = .idle := rfl
@[simp] theorem complete_lineOut (s : State) (op : Op) : (s.complete op).lineOut = s.lineOut := rfl
@[simp] theorem complete_lineOe (s : State) (op : Op) : (s.complete op).lineOe = s.lineOe := rfl
@[simp] theorem complete_sync (s : State) (op : Op) : (s.complete op).sync = s.sync := rfl
@[simp] theorem complete_cnt (s : State) (op : Op) : (s.complete op).cnt = s.cnt := rfl
@[simp] theorem complete_wcnt (s : State) (op : Op) : (s.complete op).wcnt = s.wcnt := rfl
@[simp] theorem complete_tmo (s : State) (op : Op) : (s.complete op).tmo = s.tmo := rfl
@[simp] theorem complete_inf (s : State) (op : Op) : (s.complete op).inf = s.inf := rfl
@[simp] theorem complete_bidx (s : State) (op : Op) : (s.complete op).bidx = s.bidx := rfl
@[simp] theorem complete_acc (s : State) (op : Op) : (s.complete op).acc = s.acc := rfl
@[simp] theorem complete_dproto (s : State) (op : Op) : (s.complete op).dproto = s.dproto := rfl
@[simp] theorem complete_eproto (s : State) (op : Op) : (s.complete op).eproto = s.eproto := rfl
@[simp] theorem complete_epay (s : State) (op : Op) : (s.complete op).epay = s.epay := rfl
@[simp] theorem complete_ek (s : State) (op : Op) : (s.complete op).ek = s.ek := rfl
@[simp] theorem complete_done (s : State) (op : Op) : (s.complete op).done = true := rfl
@[simp] theorem complete_doneOp (s : State) (op : Op) : (s.complete op).doneOp = op := rfl
@[simp] theorem complete_resOutcome (s : State) (op : Op) : (s.complete op).resOutcome = s.resOutcome := rfl
@[simp] theorem complete_resProtocol (s : State) (op : Op) : (s.complete op).resProtocol = s.resProtocol := rfl
@[simp] theorem complete_resBitCount (s : State) (op : Op) : (s.complete op).resBitCount = s.resBitCount := rfl
@[simp] theorem complete_resPayload (s : State) (op : Op) : (s.complete op).resPayload = s.resPayload := rfl
@[simp] theorem complete_resIsRepeat (s : State) (op : Op) : (s.complete op).resIsRepeat = s.resIsRepeat := rfl
@[simp] theorem complete_inputs (s : State) (op : Op) : (s.complete op).inputs = s.inputs := rfl
@[simp] theorem complete_now (s : State) (op : Op) : (s.complete op).now = s.now := rfl
@[simp] theorem setResult_cfg (s : State) (o : ResOutcome) (p : Protocol) (c : BitVec 6) (v : Word) (r : Bool) : (s.setResult o p c v r).cfg = s.cfg := rfl
@[simp] theorem setResult_st (s : State) (o : ResOutcome) (p : Protocol) (c : BitVec 6) (v : Word) (r : Bool) : (s.setResult o p c v r).st = s.st := rfl
@[simp] theorem setResult_lineOut (s : State) (o : ResOutcome) (p : Protocol) (c : BitVec 6) (v : Word) (r : Bool) : (s.setResult o p c v r).lineOut = s.lineOut := rfl
@[simp] theorem setResult_lineOe (s : State) (o : ResOutcome) (p : Protocol) (c : BitVec 6) (v : Word) (r : Bool) : (s.setResult o p c v r).lineOe = s.lineOe := rfl
@[simp] theorem setResult_sync (s : State) (o : ResOutcome) (p : Protocol) (c : BitVec 6) (v : Word) (r : Bool) : (s.setResult o p c v r).sync = s.sync := rfl
@[simp] theorem setResult_cnt (s : State) (o : ResOutcome) (p : Protocol) (c : BitVec 6) (v : Word) (r : Bool) : (s.setResult o p c v r).cnt = s.cnt := rfl
@[simp] theorem setResult_wcnt (s : State) (o : ResOutcome) (p : Protocol) (c : BitVec 6) (v : Word) (r : Bool) : (s.setResult o p c v r).wcnt = s.wcnt := rfl
@[simp] theorem setResult_tmo (s : State) (o : ResOutcome) (p : Protocol) (c : BitVec 6) (v : Word) (r : Bool) : (s.setResult o p c v r).tmo = s.tmo := rfl
@[simp] theorem setResult_inf (s : State) (o : ResOutcome) (p : Protocol) (c : BitVec 6) (v : Word) (r : Bool) : (s.setResult o p c v r).inf = s.inf := rfl
@[simp] theorem setResult_bidx (s : State) (o : ResOutcome) (p : Protocol) (c : BitVec 6) (v : Word) (r : Bool) : (s.setResult o p c v r).bidx = s.bidx := rfl
@[simp] theorem setResult_acc (s : State) (o : ResOutcome) (p : Protocol) (c : BitVec 6) (v : Word) (r : Bool) : (s.setResult o p c v r).acc = s.acc := rfl
@[simp] theorem setResult_dproto (s : State) (o : ResOutcome) (p : Protocol) (c : BitVec 6) (v : Word) (r : Bool) : (s.setResult o p c v r).dproto = s.dproto := rfl
@[simp] theorem setResult_eproto (s : State) (o : ResOutcome) (p : Protocol) (c : BitVec 6) (v : Word) (r : Bool) : (s.setResult o p c v r).eproto = s.eproto := rfl
@[simp] theorem setResult_epay (s : State) (o : ResOutcome) (p : Protocol) (c : BitVec 6) (v : Word) (r : Bool) : (s.setResult o p c v r).epay = s.epay := rfl
@[simp] theorem setResult_ek (s : State) (o : ResOutcome) (p : Protocol) (c : BitVec 6) (v : Word) (r : Bool) : (s.setResult o p c v r).ek = s.ek := rfl
@[simp] theorem setResult_done (s : State) (o : ResOutcome) (p : Protocol) (c : BitVec 6) (v : Word) (r : Bool) : (s.setResult o p c v r).done = s.done := rfl
@[simp] theorem setResult_doneOp (s : State) (o : ResOutcome) (p : Protocol) (c : BitVec 6) (v : Word) (r : Bool) : (s.setResult o p c v r).doneOp = s.doneOp := rfl
@[simp] theorem setResult_resOutcome (s : State) (o : ResOutcome) (p : Protocol) (c : BitVec 6) (v : Word) (r : Bool) : (s.setResult o p c v r).resOutcome = o := rfl
@[simp] theorem setResult_resProtocol (s : State) (o : ResOutcome) (p : Protocol) (c : BitVec 6) (v : Word) (r : Bool) : (s.setResult o p c v r).resProtocol = p := rfl
@[simp] theorem setResult_resBitCount (s : State) (o : ResOutcome) (p : Protocol) (c : BitVec 6) (v : Word) (r : Bool) : (s.setResult o p c v r).resBitCount = c := rfl
@[simp] theorem setResult_resPayload (s : State) (o : ResOutcome) (p : Protocol) (c : BitVec 6) (v : Word) (r : Bool) : (s.setResult o p c v r).resPayload = v := rfl
@[simp] theorem setResult_resIsRepeat (s : State) (o : ResOutcome) (p : Protocol) (c : BitVec 6) (v : Word) (r : Bool) : (s.setResult o p c v r).resIsRepeat = r := rfl
@[simp] theorem setResult_inputs (s : State) (o : ResOutcome) (p : Protocol) (c : BitVec 6) (v : Word) (r : Bool) : (s.setResult o p c v r).inputs = s.inputs := rfl
@[simp] theorem setResult_now (s : State) (o : ResOutcome) (p : Protocol) (c : BitVec 6) (v : Word) (r : Bool) : (s.setResult o p c v r).now = s.now := rfl
@[simp] theorem finish_cfg (s : State) (o : ResOutcome) (p : Protocol) (c : BitVec 6) (v : Word) (r : Bool) : (s.finish o p c v r).cfg = s.cfg := by cases o <;> rfl
@[simp] theorem finish_st (s : State) (o : ResOutcome) (p : Protocol) (c : BitVec 6) (v : Word) (r : Bool) : (s.finish o p c v r).st = .idle := by cases o <;> rfl
@[simp] theorem finish_lineOut (s : State) (o : ResOutcome) (p : Protocol) (c : BitVec 6) (v : Word) (r : Bool) : (s.finish o p c v r).lineOut = s.lineOut := by cases o <;> rfl
@[simp] theorem finish_lineOe (s : State) (o : ResOutcome) (p : Protocol) (c : BitVec 6) (v : Word) (r : Bool) : (s.finish o p c v r).lineOe = s.lineOe := by cases o <;> rfl
@[simp] theorem finish_sync (s : State) (o : ResOutcome) (p : Protocol) (c : BitVec 6) (v : Word) (r : Bool) : (s.finish o p c v r).sync = s.sync := by cases o <;> rfl
@[simp] theorem finish_cnt (s : State) (o : ResOutcome) (p : Protocol) (c : BitVec 6) (v : Word) (r : Bool) : (s.finish o p c v r).cnt = s.cnt := by cases o <;> rfl
@[simp] theorem finish_wcnt (s : State) (o : ResOutcome) (p : Protocol) (c : BitVec 6) (v : Word) (r : Bool) : (s.finish o p c v r).wcnt = s.wcnt := by cases o <;> rfl
@[simp] theorem finish_tmo (s : State) (o : ResOutcome) (p : Protocol) (c : BitVec 6) (v : Word) (r : Bool) : (s.finish o p c v r).tmo = s.tmo := by cases o <;> rfl
@[simp] theorem finish_inf (s : State) (o : ResOutcome) (p : Protocol) (c : BitVec 6) (v : Word) (r : Bool) : (s.finish o p c v r).inf = s.inf := by cases o <;> rfl
@[simp] theorem finish_bidx (s : State) (o : ResOutcome) (p : Protocol) (c : BitVec 6) (v : Word) (r : Bool) : (s.finish o p c v r).bidx = s.bidx := by cases o <;> rfl
@[simp] theorem finish_acc (s : State) (o : ResOutcome) (p : Protocol) (c : BitVec 6) (v : Word) (r : Bool) : (s.finish o p c v r).acc = s.acc := by cases o <;> rfl
@[simp] theorem finish_dproto (s : State) (o : ResOutcome) (p : Protocol) (c : BitVec 6) (v : Word) (r : Bool) : (s.finish o p c v r).dproto = s.dproto := by cases o <;> rfl
@[simp] theorem finish_eproto (s : State) (o : ResOutcome) (p : Protocol) (c : BitVec 6) (v : Word) (r : Bool) : (s.finish o p c v r).eproto = s.eproto := by cases o <;> rfl
@[simp] theorem finish_epay (s : State) (o : ResOutcome) (p : Protocol) (c : BitVec 6) (v : Word) (r : Bool) : (s.finish o p c v r).epay = s.epay := by cases o <;> rfl
@[simp] theorem finish_ek (s : State) (o : ResOutcome) (p : Protocol) (c : BitVec 6) (v : Word) (r : Bool) : (s.finish o p c v r).ek = s.ek := by cases o <;> rfl
@[simp] theorem finish_done (s : State) (o : ResOutcome) (p : Protocol) (c : BitVec 6) (v : Word) (r : Bool) : (s.finish o p c v r).done = true := by cases o <;> rfl
@[simp] theorem finish_doneOp (s : State) (o : ResOutcome) (p : Protocol) (c : BitVec 6) (v : Word) (r : Bool) : (s.finish o p c v r).doneOp = .decode := by cases o <;> rfl
@[simp] theorem finish_resOutcome (s : State) (o : ResOutcome) (p : Protocol) (c : BitVec 6) (v : Word) (r : Bool) : (s.finish o p c v r).resOutcome = o := by cases o <;> rfl
@[simp] theorem finish_inputs (s : State) (o : ResOutcome) (p : Protocol) (c : BitVec 6) (v : Word) (r : Bool) : (s.finish o p c v r).inputs = s.inputs := by cases o <;> rfl
@[simp] theorem finish_now (s : State) (o : ResOutcome) (p : Protocol) (c : BitVec 6) (v : Word) (r : Bool) : (s.finish o p c v r).now = s.now := by cases o <;> rfl
@[simp] theorem finishTimeout_cfg (s : State) : s.finishTimeout.cfg = s.cfg := rfl
@[simp] theorem finishTimeout_st (s : State) : s.finishTimeout.st = .idle := rfl
@[simp] theorem finishTimeout_lineOut (s : State) : s.finishTimeout.lineOut = s.lineOut := rfl
@[simp] theorem finishTimeout_lineOe (s : State) : s.finishTimeout.lineOe = s.lineOe := rfl
@[simp] theorem finishTimeout_sync (s : State) : s.finishTimeout.sync = s.sync := rfl
@[simp] theorem finishTimeout_cnt (s : State) : s.finishTimeout.cnt = s.cnt := rfl
@[simp] theorem finishTimeout_wcnt (s : State) : s.finishTimeout.wcnt = s.wcnt := rfl
@[simp] theorem finishTimeout_tmo (s : State) : s.finishTimeout.tmo = s.tmo := rfl
@[simp] theorem finishTimeout_inf (s : State) : s.finishTimeout.inf = s.inf := rfl
@[simp] theorem finishTimeout_bidx (s : State) : s.finishTimeout.bidx = s.bidx := rfl
@[simp] theorem finishTimeout_acc (s : State) : s.finishTimeout.acc = s.acc := rfl
@[simp] theorem finishTimeout_dproto (s : State) : s.finishTimeout.dproto = s.dproto := rfl
@[simp] theorem finishTimeout_eproto (s : State) : s.finishTimeout.eproto = s.eproto := rfl
@[simp] theorem finishTimeout_epay (s : State) : s.finishTimeout.epay = s.epay := rfl
@[simp] theorem finishTimeout_ek (s : State) : s.finishTimeout.ek = s.ek := rfl
@[simp] theorem finishTimeout_done (s : State) : s.finishTimeout.done = true := rfl
@[simp] theorem finishTimeout_doneOp (s : State) : s.finishTimeout.doneOp = .decode := rfl
@[simp] theorem finishTimeout_resOutcome (s : State) : s.finishTimeout.resOutcome = .timeout := rfl
@[simp] theorem finishTimeout_resProtocol (s : State) : s.finishTimeout.resProtocol = .longFrame := rfl
@[simp] theorem finishTimeout_resBitCount (s : State) : s.finishTimeout.resBitCount = 0 := rfl
@[simp] theorem finishTimeout_resPayload (s : State) : s.finishTimeout.resPayload = 0 := rfl
@[simp] theorem finishTimeout_resIsRepeat (s : State) : s.finishTimeout.resIsRepeat = false := rfl
@[simp] theorem finishTimeout_inputs (s : State) : s.finishTimeout.inputs = s.inputs := rfl
@[simp] theorem finishTimeout_now (s : State) : s.finishTimeout.now = s.now := rfl
@[simp] theorem finishProtocolError_cfg (s : State) : s.finishProtocolError.cfg = s.cfg := rfl
@[simp] theorem finishProtocolError_st (s : State) : s.finishProtocolError.st = .idle := rfl
@[simp] theorem finishProtocolError_lineOut (s : State) : s.finishProtocolError.lineOut = s.lineOut := rfl
@[simp] theorem finishProtocolError_lineOe (s : State) : s.finishProtocolError.lineOe = s.lineOe := rfl
@[simp] theorem finishProtocolError_sync (s : State) : s.finishProtocolError.sync = s.sync := rfl
@[simp] theorem finishProtocolError_cnt (s : State) : s.finishProtocolError.cnt = s.cnt := rfl
@[simp] theorem finishProtocolError_wcnt (s : State) : s.finishProtocolError.wcnt = s.wcnt := rfl
@[simp] theorem finishProtocolError_tmo (s : State) : s.finishProtocolError.tmo = s.tmo := rfl
@[simp] theorem finishProtocolError_inf (s : State) : s.finishProtocolError.inf = s.inf := rfl
@[simp] theorem finishProtocolError_bidx (s : State) : s.finishProtocolError.bidx = s.bidx := rfl
@[simp] theorem finishProtocolError_acc (s : State) : s.finishProtocolError.acc = s.acc := rfl
@[simp] theorem finishProtocolError_dproto (s : State) : s.finishProtocolError.dproto = s.dproto := rfl
@[simp] theorem finishProtocolError_eproto (s : State) : s.finishProtocolError.eproto = s.eproto := rfl
@[simp] theorem finishProtocolError_epay (s : State) : s.finishProtocolError.epay = s.epay := rfl
@[simp] theorem finishProtocolError_ek (s : State) : s.finishProtocolError.ek = s.ek := rfl
@[simp] theorem finishProtocolError_done (s : State) : s.finishProtocolError.done = true := rfl
@[simp] theorem finishProtocolError_doneOp (s : State) : s.finishProtocolError.doneOp = .decode := rfl
@[simp] theorem finishProtocolError_resOutcome (s : State) : s.finishProtocolError.resOutcome = .protocolError := rfl
@[simp] theorem finishProtocolError_resProtocol (s : State) : s.finishProtocolError.resProtocol = .longFrame := rfl
@[simp] theorem finishProtocolError_resBitCount (s : State) : s.finishProtocolError.resBitCount = 0 := rfl
@[simp] theorem finishProtocolError_resPayload (s : State) : s.finishProtocolError.resPayload = 0 := rfl
@[simp] theorem finishProtocolError_resIsRepeat (s : State) : s.finishProtocolError.resIsRepeat = false := rfl
@[simp] theorem finishProtocolError_inputs (s : State) : s.finishProtocolError.inputs = s.inputs := rfl
@[simp] theorem finishProtocolError_now (s : State) : s.finishProtocolError.now = s.now := rfl

/-! ### Latching (R146, R147, R160) -/

@[simp] theorem latchPayload_cfg (s : State) (pr : Protocol) (p : Word) : (s.latchPayload pr p).cfg = s.cfg := rfl
@[simp] theorem latchPayload_st (s : State) (pr : Protocol) (p : Word) : (s.latchPayload pr p).st = s.st := rfl
@[simp] theorem latchPayload_lineOut (s : State) (pr : Protocol) (p : Word) : (s.latchPayload pr p).lineOut = s.lineOut := rfl
@[simp] theorem latchPayload_lineOe (s : State) (pr : Protocol) (p : Word) : (s.latchPayload pr p).lineOe = s.lineOe := rfl
@[simp] theorem latchPayload_sync (s : State) (pr : Protocol) (p : Word) : (s.latchPayload pr p).sync = s.sync := rfl
@[simp] theorem latchPayload_cnt (s : State) (pr : Protocol) (p : Word) : (s.latchPayload pr p).cnt = s.cnt := rfl
@[simp] theorem latchPayload_wcnt (s : State) (pr : Protocol) (p : Word) : (s.latchPayload pr p).wcnt = s.wcnt := rfl
@[simp] theorem latchPayload_tmo (s : State) (pr : Protocol) (p : Word) : (s.latchPayload pr p).tmo = s.tmo := rfl
@[simp] theorem latchPayload_inf (s : State) (pr : Protocol) (p : Word) : (s.latchPayload pr p).inf = s.inf := rfl
@[simp] theorem latchPayload_bidx (s : State) (pr : Protocol) (p : Word) : (s.latchPayload pr p).bidx = s.bidx := rfl
@[simp] theorem latchPayload_acc (s : State) (pr : Protocol) (p : Word) : (s.latchPayload pr p).acc = s.acc := rfl
@[simp] theorem latchPayload_dproto (s : State) (pr : Protocol) (p : Word) : (s.latchPayload pr p).dproto = s.dproto := rfl
@[simp] theorem latchPayload_eproto (s : State) (pr : Protocol) (p : Word) : (s.latchPayload pr p).eproto = pr := rfl
@[simp] theorem latchPayload_epay (s : State) (pr : Protocol) (p : Word) : (s.latchPayload pr p).epay = p := rfl
@[simp] theorem latchPayload_ek (s : State) (pr : Protocol) (p : Word) : (s.latchPayload pr p).ek = 0 := rfl
@[simp] theorem latchPayload_done (s : State) (pr : Protocol) (p : Word) : (s.latchPayload pr p).done = s.done := rfl
@[simp] theorem latchPayload_doneOp (s : State) (pr : Protocol) (p : Word) : (s.latchPayload pr p).doneOp = s.doneOp := rfl
@[simp] theorem latchPayload_resOutcome (s : State) (pr : Protocol) (p : Word) : (s.latchPayload pr p).resOutcome = s.resOutcome := rfl
@[simp] theorem latchPayload_resProtocol (s : State) (pr : Protocol) (p : Word) : (s.latchPayload pr p).resProtocol = s.resProtocol := rfl
@[simp] theorem latchPayload_resBitCount (s : State) (pr : Protocol) (p : Word) : (s.latchPayload pr p).resBitCount = s.resBitCount := rfl
@[simp] theorem latchPayload_resPayload (s : State) (pr : Protocol) (p : Word) : (s.latchPayload pr p).resPayload = s.resPayload := rfl
@[simp] theorem latchPayload_resIsRepeat (s : State) (pr : Protocol) (p : Word) : (s.latchPayload pr p).resIsRepeat = s.resIsRepeat := rfl
@[simp] theorem latchPayload_inputs (s : State) (pr : Protocol) (p : Word) : (s.latchPayload pr p).inputs = s.inputs := rfl
@[simp] theorem latchPayload_now (s : State) (pr : Protocol) (p : Word) : (s.latchPayload pr p).now = s.now := rfl
@[simp] theorem latchTimeout_cfg (s : State) (md : Bool) (t : Word) : (s.latchTimeout md t).cfg = s.cfg := rfl
@[simp] theorem latchTimeout_st (s : State) (md : Bool) (t : Word) : (s.latchTimeout md t).st = s.st := rfl
@[simp] theorem latchTimeout_lineOut (s : State) (md : Bool) (t : Word) : (s.latchTimeout md t).lineOut = s.lineOut := rfl
@[simp] theorem latchTimeout_lineOe (s : State) (md : Bool) (t : Word) : (s.latchTimeout md t).lineOe = s.lineOe := rfl
@[simp] theorem latchTimeout_sync (s : State) (md : Bool) (t : Word) : (s.latchTimeout md t).sync = s.sync := rfl
@[simp] theorem latchTimeout_cnt (s : State) (md : Bool) (t : Word) : (s.latchTimeout md t).cnt = 0 := rfl
@[simp] theorem latchTimeout_wcnt (s : State) (md : Bool) (t : Word) : (s.latchTimeout md t).wcnt = 0 := rfl
@[simp] theorem latchTimeout_tmo (s : State) (md : Bool) (t : Word) : (s.latchTimeout md t).tmo = t := rfl
@[simp] theorem latchTimeout_inf (s : State) (md : Bool) (t : Word) : (s.latchTimeout md t).inf = md := rfl
@[simp] theorem latchTimeout_bidx (s : State) (md : Bool) (t : Word) : (s.latchTimeout md t).bidx = 0 := rfl
@[simp] theorem latchTimeout_acc (s : State) (md : Bool) (t : Word) : (s.latchTimeout md t).acc = 0 := rfl
@[simp] theorem latchTimeout_dproto (s : State) (md : Bool) (t : Word) : (s.latchTimeout md t).dproto = .longFrame := rfl
@[simp] theorem latchTimeout_eproto (s : State) (md : Bool) (t : Word) : (s.latchTimeout md t).eproto = s.eproto := rfl
@[simp] theorem latchTimeout_epay (s : State) (md : Bool) (t : Word) : (s.latchTimeout md t).epay = s.epay := rfl
@[simp] theorem latchTimeout_ek (s : State) (md : Bool) (t : Word) : (s.latchTimeout md t).ek = s.ek := rfl
@[simp] theorem latchTimeout_done (s : State) (md : Bool) (t : Word) : (s.latchTimeout md t).done = s.done := rfl
@[simp] theorem latchTimeout_doneOp (s : State) (md : Bool) (t : Word) : (s.latchTimeout md t).doneOp = s.doneOp := rfl
@[simp] theorem latchTimeout_resOutcome (s : State) (md : Bool) (t : Word) : (s.latchTimeout md t).resOutcome = s.resOutcome := rfl
@[simp] theorem latchTimeout_resProtocol (s : State) (md : Bool) (t : Word) : (s.latchTimeout md t).resProtocol = s.resProtocol := rfl
@[simp] theorem latchTimeout_resBitCount (s : State) (md : Bool) (t : Word) : (s.latchTimeout md t).resBitCount = s.resBitCount := rfl
@[simp] theorem latchTimeout_resPayload (s : State) (md : Bool) (t : Word) : (s.latchTimeout md t).resPayload = s.resPayload := rfl
@[simp] theorem latchTimeout_resIsRepeat (s : State) (md : Bool) (t : Word) : (s.latchTimeout md t).resIsRepeat = s.resIsRepeat := rfl
@[simp] theorem latchTimeout_inputs (s : State) (md : Bool) (t : Word) : (s.latchTimeout md t).inputs = s.inputs := rfl
@[simp] theorem latchTimeout_now (s : State) (md : Bool) (t : Word) : (s.latchTimeout md t).now = s.now := rfl
@[simp] theorem startTransmit_cfg (s : State) (pr : Protocol) (p : Word) : (s.startTransmit pr p).cfg = s.cfg := rfl
@[simp] theorem startTransmit_st (s : State) (pr : Protocol) (p : Word) : (s.startTransmit pr p).st = .eTx := rfl
@[simp] theorem startTransmit_lineOut (s : State) (pr : Protocol) (p : Word) : (s.startTransmit pr p).lineOut = s.cfg.txOnLevel := rfl
@[simp] theorem startTransmit_lineOe (s : State) (pr : Protocol) (p : Word) : (s.startTransmit pr p).lineOe = true := rfl
@[simp] theorem startTransmit_sync (s : State) (pr : Protocol) (p : Word) : (s.startTransmit pr p).sync = s.sync := rfl
@[simp] theorem startTransmit_cnt (s : State) (pr : Protocol) (p : Word) : (s.startTransmit pr p).cnt = s.cnt := rfl
@[simp] theorem startTransmit_wcnt (s : State) (pr : Protocol) (p : Word) : (s.startTransmit pr p).wcnt = s.wcnt := rfl
@[simp] theorem startTransmit_tmo (s : State) (pr : Protocol) (p : Word) : (s.startTransmit pr p).tmo = s.tmo := rfl
@[simp] theorem startTransmit_inf (s : State) (pr : Protocol) (p : Word) : (s.startTransmit pr p).inf = s.inf := rfl
@[simp] theorem startTransmit_bidx (s : State) (pr : Protocol) (p : Word) : (s.startTransmit pr p).bidx = s.bidx := rfl
@[simp] theorem startTransmit_acc (s : State) (pr : Protocol) (p : Word) : (s.startTransmit pr p).acc = s.acc := rfl
@[simp] theorem startTransmit_dproto (s : State) (pr : Protocol) (p : Word) : (s.startTransmit pr p).dproto = s.dproto := rfl
@[simp] theorem startTransmit_eproto (s : State) (pr : Protocol) (p : Word) : (s.startTransmit pr p).eproto = pr := rfl
@[simp] theorem startTransmit_epay (s : State) (pr : Protocol) (p : Word) : (s.startTransmit pr p).epay = p := rfl
@[simp] theorem startTransmit_ek (s : State) (pr : Protocol) (p : Word) : (s.startTransmit pr p).ek = 0 := rfl
@[simp] theorem startTransmit_done (s : State) (pr : Protocol) (p : Word) : (s.startTransmit pr p).done = s.done := rfl
@[simp] theorem startTransmit_doneOp (s : State) (pr : Protocol) (p : Word) : (s.startTransmit pr p).doneOp = s.doneOp := rfl
@[simp] theorem startTransmit_resOutcome (s : State) (pr : Protocol) (p : Word) : (s.startTransmit pr p).resOutcome = s.resOutcome := rfl
@[simp] theorem startTransmit_resProtocol (s : State) (pr : Protocol) (p : Word) : (s.startTransmit pr p).resProtocol = s.resProtocol := rfl
@[simp] theorem startTransmit_resBitCount (s : State) (pr : Protocol) (p : Word) : (s.startTransmit pr p).resBitCount = s.resBitCount := rfl
@[simp] theorem startTransmit_resPayload (s : State) (pr : Protocol) (p : Word) : (s.startTransmit pr p).resPayload = s.resPayload := rfl
@[simp] theorem startTransmit_resIsRepeat (s : State) (pr : Protocol) (p : Word) : (s.startTransmit pr p).resIsRepeat = s.resIsRepeat := rfl
@[simp] theorem startTransmit_inputs (s : State) (pr : Protocol) (p : Word) : (s.startTransmit pr p).inputs = s.inputs := rfl
@[simp] theorem startTransmit_now (s : State) (pr : Protocol) (p : Word) : (s.startTransmit pr p).now = s.now := rfl
@[simp] theorem startDecode_cfg (s : State) (md : Bool) (t : Word) : (s.startDecode md t).cfg = s.cfg := rfl
@[simp] theorem startDecode_st (s : State) (md : Bool) (t : Word) : (s.startDecode md t).st = .dWaitIdle := rfl
@[simp] theorem startDecode_lineOut (s : State) (md : Bool) (t : Word) : (s.startDecode md t).lineOut = s.lineOut := rfl
@[simp] theorem startDecode_lineOe (s : State) (md : Bool) (t : Word) : (s.startDecode md t).lineOe = s.lineOe := rfl
@[simp] theorem startDecode_sync (s : State) (md : Bool) (t : Word) : (s.startDecode md t).sync = s.sync := rfl
@[simp] theorem startDecode_cnt (s : State) (md : Bool) (t : Word) : (s.startDecode md t).cnt = 0 := rfl
@[simp] theorem startDecode_wcnt (s : State) (md : Bool) (t : Word) : (s.startDecode md t).wcnt = 0 := rfl
@[simp] theorem startDecode_tmo (s : State) (md : Bool) (t : Word) : (s.startDecode md t).tmo = t := rfl
@[simp] theorem startDecode_inf (s : State) (md : Bool) (t : Word) : (s.startDecode md t).inf = md := rfl
@[simp] theorem startDecode_bidx (s : State) (md : Bool) (t : Word) : (s.startDecode md t).bidx = 0 := rfl
@[simp] theorem startDecode_acc (s : State) (md : Bool) (t : Word) : (s.startDecode md t).acc = 0 := rfl
@[simp] theorem startDecode_dproto (s : State) (md : Bool) (t : Word) : (s.startDecode md t).dproto = .longFrame := rfl
@[simp] theorem startDecode_eproto (s : State) (md : Bool) (t : Word) : (s.startDecode md t).eproto = s.eproto := rfl
@[simp] theorem startDecode_epay (s : State) (md : Bool) (t : Word) : (s.startDecode md t).epay = s.epay := rfl
@[simp] theorem startDecode_ek (s : State) (md : Bool) (t : Word) : (s.startDecode md t).ek = s.ek := rfl
@[simp] theorem startDecode_done (s : State) (md : Bool) (t : Word) : (s.startDecode md t).done = s.done := rfl
@[simp] theorem startDecode_doneOp (s : State) (md : Bool) (t : Word) : (s.startDecode md t).doneOp = s.doneOp := rfl
@[simp] theorem startDecode_resOutcome (s : State) (md : Bool) (t : Word) : (s.startDecode md t).resOutcome = .none := rfl
@[simp] theorem startDecode_resProtocol (s : State) (md : Bool) (t : Word) : (s.startDecode md t).resProtocol = .longFrame := rfl
@[simp] theorem startDecode_resBitCount (s : State) (md : Bool) (t : Word) : (s.startDecode md t).resBitCount = 0 := rfl
@[simp] theorem startDecode_resPayload (s : State) (md : Bool) (t : Word) : (s.startDecode md t).resPayload = 0 := rfl
@[simp] theorem startDecode_resIsRepeat (s : State) (md : Bool) (t : Word) : (s.startDecode md t).resIsRepeat = false := rfl
@[simp] theorem startDecode_inputs (s : State) (md : Bool) (t : Word) : (s.startDecode md t).inputs = s.inputs := rfl
@[simp] theorem startDecode_now (s : State) (md : Bool) (t : Word) : (s.startDecode md t).now = s.now := rfl

/-! ### Counting (R124, R163) -/

@[simp] theorem count_cfg (s : State) (m : Measured) : (s.count m).cfg = s.cfg := by cases m <;> rfl
@[simp] theorem count_st (s : State) (m : Measured) : (s.count m).st = s.st := by cases m <;> rfl
@[simp] theorem count_lineOut (s : State) (m : Measured) : (s.count m).lineOut = s.lineOut := by cases m <;> rfl
@[simp] theorem count_lineOe (s : State) (m : Measured) : (s.count m).lineOe = s.lineOe := by cases m <;> rfl
@[simp] theorem count_sync (s : State) (m : Measured) : (s.count m).sync = s.sync := by cases m <;> rfl
@[simp] theorem count_wcnt (s : State) (m : Measured) : (s.count m).wcnt = s.wcnt := by cases m <;> rfl
@[simp] theorem count_tmo (s : State) (m : Measured) : (s.count m).tmo = s.tmo := by cases m <;> rfl
@[simp] theorem count_inf (s : State) (m : Measured) : (s.count m).inf = s.inf := by cases m <;> rfl
@[simp] theorem count_bidx (s : State) (m : Measured) : (s.count m).bidx = s.bidx := by cases m <;> rfl
@[simp] theorem count_acc (s : State) (m : Measured) : (s.count m).acc = s.acc := by cases m <;> rfl
@[simp] theorem count_dproto (s : State) (m : Measured) : (s.count m).dproto = s.dproto := by cases m <;> rfl
@[simp] theorem count_eproto (s : State) (m : Measured) : (s.count m).eproto = s.eproto := by cases m <;> rfl
@[simp] theorem count_epay (s : State) (m : Measured) : (s.count m).epay = s.epay := by cases m <;> rfl
@[simp] theorem count_ek (s : State) (m : Measured) : (s.count m).ek = s.ek := by cases m <;> rfl
@[simp] theorem count_done (s : State) (m : Measured) : (s.count m).done = s.done := by cases m <;> rfl
@[simp] theorem count_doneOp (s : State) (m : Measured) : (s.count m).doneOp = s.doneOp := by cases m <;> rfl
@[simp] theorem count_resOutcome (s : State) (m : Measured) : (s.count m).resOutcome = s.resOutcome := by cases m <;> rfl
@[simp] theorem count_resProtocol (s : State) (m : Measured) : (s.count m).resProtocol = s.resProtocol := by cases m <;> rfl
@[simp] theorem count_resBitCount (s : State) (m : Measured) : (s.count m).resBitCount = s.resBitCount := by cases m <;> rfl
@[simp] theorem count_resPayload (s : State) (m : Measured) : (s.count m).resPayload = s.resPayload := by cases m <;> rfl
@[simp] theorem count_resIsRepeat (s : State) (m : Measured) : (s.count m).resIsRepeat = s.resIsRepeat := by cases m <;> rfl
@[simp] theorem count_inputs (s : State) (m : Measured) : (s.count m).inputs = s.inputs := by cases m <;> rfl
@[simp] theorem count_now (s : State) (m : Measured) : (s.count m).now = s.now := by cases m <;> rfl
@[simp] theorem count_cont_cnt (s : State) : (s.count .cont).cnt = s.truncCnt (s.cnt + 1) := rfl
@[simp] theorem count_limit (s : State) : s.count .limit = s := rfl
@[simp] theorem count_ended_cnt (s : State) (n : Nat) : (s.count (.ended n)).cnt = s.truncCnt 1 := rfl
@[simp] theorem countWait_cfg (s : State) : s.countWait.cfg = s.cfg := by unfold countWait; split <;> rfl
@[simp] theorem countWait_st (s : State) : s.countWait.st = s.st := by unfold countWait; split <;> rfl
@[simp] theorem countWait_lineOut (s : State) : s.countWait.lineOut = s.lineOut := by unfold countWait; split <;> rfl
@[simp] theorem countWait_lineOe (s : State) : s.countWait.lineOe = s.lineOe := by unfold countWait; split <;> rfl
@[simp] theorem countWait_sync (s : State) : s.countWait.sync = s.sync := by unfold countWait; split <;> rfl
@[simp] theorem countWait_cnt (s : State) : s.countWait.cnt = s.cnt := by unfold countWait; split <;> rfl
@[simp] theorem countWait_tmo (s : State) : s.countWait.tmo = s.tmo := by unfold countWait; split <;> rfl
@[simp] theorem countWait_inf (s : State) : s.countWait.inf = s.inf := by unfold countWait; split <;> rfl
@[simp] theorem countWait_bidx (s : State) : s.countWait.bidx = s.bidx := by unfold countWait; split <;> rfl
@[simp] theorem countWait_acc (s : State) : s.countWait.acc = s.acc := by unfold countWait; split <;> rfl
@[simp] theorem countWait_dproto (s : State) : s.countWait.dproto = s.dproto := by unfold countWait; split <;> rfl
@[simp] theorem countWait_eproto (s : State) : s.countWait.eproto = s.eproto := by unfold countWait; split <;> rfl
@[simp] theorem countWait_epay (s : State) : s.countWait.epay = s.epay := by unfold countWait; split <;> rfl
@[simp] theorem countWait_ek (s : State) : s.countWait.ek = s.ek := by unfold countWait; split <;> rfl
@[simp] theorem countWait_done (s : State) : s.countWait.done = s.done := by unfold countWait; split <;> rfl
@[simp] theorem countWait_doneOp (s : State) : s.countWait.doneOp = s.doneOp := by unfold countWait; split <;> rfl
@[simp] theorem countWait_resOutcome (s : State) : s.countWait.resOutcome = s.resOutcome := by unfold countWait; split <;> rfl
@[simp] theorem countWait_resProtocol (s : State) : s.countWait.resProtocol = s.resProtocol := by unfold countWait; split <;> rfl
@[simp] theorem countWait_resBitCount (s : State) : s.countWait.resBitCount = s.resBitCount := by unfold countWait; split <;> rfl
@[simp] theorem countWait_resPayload (s : State) : s.countWait.resPayload = s.resPayload := by unfold countWait; split <;> rfl
@[simp] theorem countWait_resIsRepeat (s : State) : s.countWait.resIsRepeat = s.resIsRepeat := by unfold countWait; split <;> rfl
@[simp] theorem countWait_inputs (s : State) : s.countWait.inputs = s.inputs := by unfold countWait; split <;> rfl
@[simp] theorem countWait_now (s : State) : s.countWait.now = s.now := by unfold countWait; split <;> rfl
theorem countWait_wcnt (s : State) : s.countWait.wcnt = if s.inf then s.wcnt else s.wcnt + 1 := by
  unfold countWait; split <;> simp [*]

/-! ### The engines' frames: what no `encode_step` and no `decode_step` writes -/

@[simp] theorem encodeStep_cfg (s : State) : s.encodeStep.cfg = s.cfg := by unfold encodeStep; split <;> rfl
@[simp] theorem encodeStep_sync (s : State) : s.encodeStep.sync = s.sync := by unfold encodeStep; split <;> rfl
@[simp] theorem encodeStep_cnt (s : State) : s.encodeStep.cnt = s.cnt := by unfold encodeStep; split <;> rfl
@[simp] theorem encodeStep_wcnt (s : State) : s.encodeStep.wcnt = s.wcnt := by unfold encodeStep; split <;> rfl
@[simp] theorem encodeStep_tmo (s : State) : s.encodeStep.tmo = s.tmo := by unfold encodeStep; split <;> rfl
@[simp] theorem encodeStep_inf (s : State) : s.encodeStep.inf = s.inf := by unfold encodeStep; split <;> rfl
@[simp] theorem encodeStep_bidx (s : State) : s.encodeStep.bidx = s.bidx := by unfold encodeStep; split <;> rfl
@[simp] theorem encodeStep_acc (s : State) : s.encodeStep.acc = s.acc := by unfold encodeStep; split <;> rfl
@[simp] theorem encodeStep_dproto (s : State) : s.encodeStep.dproto = s.dproto := by unfold encodeStep; split <;> rfl
@[simp] theorem encodeStep_eproto (s : State) : s.encodeStep.eproto = s.eproto := by unfold encodeStep; split <;> rfl
@[simp] theorem encodeStep_epay (s : State) : s.encodeStep.epay = s.epay := by unfold encodeStep; split <;> rfl
@[simp] theorem encodeStep_resOutcome (s : State) : s.encodeStep.resOutcome = s.resOutcome := by unfold encodeStep; split <;> rfl
@[simp] theorem encodeStep_resProtocol (s : State) : s.encodeStep.resProtocol = s.resProtocol := by unfold encodeStep; split <;> rfl
@[simp] theorem encodeStep_resBitCount (s : State) : s.encodeStep.resBitCount = s.resBitCount := by unfold encodeStep; split <;> rfl
@[simp] theorem encodeStep_resPayload (s : State) : s.encodeStep.resPayload = s.resPayload := by unfold encodeStep; split <;> rfl
@[simp] theorem encodeStep_resIsRepeat (s : State) : s.encodeStep.resIsRepeat = s.resIsRepeat := by unfold encodeStep; split <;> rfl
@[simp] theorem encodeStep_inputs (s : State) : s.encodeStep.inputs = s.inputs := by unfold encodeStep; split <;> rfl
@[simp] theorem encodeStep_now (s : State) : s.encodeStep.now = s.now := by unfold encodeStep; split <;> rfl

end Sys2Proof.Machine.State
end

