-- ==== Sys2Proof/Laws/Decode.lean ====
section
/-! SUPPORT. The fields of a packed command word (spec/30_encoding.md R70), and every word as its fields (R78). -/

namespace Sys2Proof

theorem Op.ofCode_code (o : Op) : Op.ofCode o.code = o := by cases o <;> decide

/-- Bit by bit, a packed word is its fields at the places R70 gives. -/
theorem getLsbD_packWord (op : BitVec 2) (md : BitVec 1) (rs : BitVec 5) (a : Word) (i : Nat) :
    (packWord op md rs a).getLsbD i =
      if i < 2 then op.getLsbD i
      else if i < 3 then md.getLsbD (i - 2)
      else if i < 8 then rs.getLsbD (i - 3)
      else a.getLsbD (i - 8) := by
  show (a ++ rs ++ md ++ op : BitVec (32 + 5 + 1 + 2)).getLsbD i = _
  rw [BitVec.getLsbD_append, BitVec.getLsbD_append, BitVec.getLsbD_append]
  simp only [Nat.sub_sub]
  split_ifs <;> first | rfl | (exfalso; omega)

theorem opField_packWord (op : BitVec 2) (md : BitVec 1) (rs : BitVec 5) (a : Word) :
    opField (packWord op md rs a) = op := by
  apply BitVec.eq_of_getLsbD_eq
  intro i hi
  simp [opField, getLsbD_packWord, hi]

theorem modField_packWord (op : BitVec 2) (md : BitVec 1) (rs : BitVec 5) (a : Word) :
    modField (packWord op md rs a) = md := by
  apply BitVec.eq_of_getLsbD_eq
  intro i hi
  obtain rfl : i = 0 := by omega
  simp only [modField, BitVec.getLsbD_extractLsb', getLsbD_packWord]
  simp

theorem rsvdField_packWord (op : BitVec 2) (md : BitVec 1) (rs : BitVec 5) (a : Word) :
    rsvdField (packWord op md rs a) = rs := by
  apply BitVec.eq_of_getLsbD_eq
  intro i hi
  simp [rsvdField, getLsbD_packWord, hi, show ¬ 3 + i < 2 by omega, show 3 + i < 8 by omega]

theorem argField_packWord (op : BitVec 2) (md : BitVec 1) (rs : BitVec 5) (a : Word) :
    argField (packWord op md rs a) = a := by
  apply BitVec.eq_of_getLsbD_eq
  intro i hi
  simp [argField, getLsbD_packWord, hi, show ¬ 8 + i < 2 by omega, show ¬ 8 + i < 3 by omega]

/-- Every word is its four fields (R70). -/
theorem packWord_fields (w : CmdWord) : packWord (opField w) (modField w) (rsvdField w) (argField w) = w := by
  apply BitVec.eq_of_getLsbD_eq
  intro i hi
  rw [getLsbD_packWord]
  simp only [opField, modField, rsvdField, argField, BitVec.getLsbD_extractLsb']
  split_ifs with h1 h2 h3
  · simp [h1]
  · simp [show i = 2 by omega]
  · simp [show i - 3 < 5 by omega, show 3 + (i - 3) = i by omega]
  · simp [show i - 8 < 32 by omega, show 8 + (i - 8) = i by omega]

/-- The fields determine the word. -/
theorem packWord_inj {op op' : BitVec 2} {md md' : BitVec 1} {rs rs' : BitVec 5} {a a' : Word} :
    packWord op md rs a = packWord op' md' rs' a' ↔ op = op' ∧ md = md' ∧ rs = rs' ∧ a = a' := by
  constructor
  · intro h
    refine ⟨?_, ?_, ?_, ?_⟩
    · rw [← opField_packWord op md rs a, h, opField_packWord]
    · rw [← modField_packWord op md rs a, h, modField_packWord]
    · rw [← rsvdField_packWord op md rs a, h, rsvdField_packWord]
    · rw [← argField_packWord op md rs a, h, argField_packWord]
  · rintro ⟨rfl, rfl, rfl, rfl⟩; rfl

/-- Masking a word masks its fields. -/
theorem packWord_and (op op' : BitVec 2) (md md' : BitVec 1) (rs rs' : BitVec 5) (a a' : Word) :
    packWord op md rs a &&& packWord op' md' rs' a' = packWord (op &&& op') (md &&& md') (rs &&& rs') (a &&& a') := by
  apply BitVec.eq_of_getLsbD_eq
  intro i _
  simp only [BitVec.getLsbD_and, getLsbD_packWord]
  split_ifs <;> rfl

end Sys2Proof
end

