-- ==== Sys2Proof/Laws/Edge.lean ====
section
/-! SUPPORT. What one edge can do (spec/40_commands.md R101), said once: the five cases of `step`, and that each of them
answers a next state. -/

namespace Sys2Proof.Machine

/-- Every command's acceptance action answers a next state (spec/60_exceptions.md R220). -/
theorem exec_answers_next (i : Instr) (s : State) : ∃ t, exec i s = .next t := by
  cases i <;> exact ⟨_, rfl⟩

theorem State.begun_eq (s : State) :
    s.begun = { s with
      inputs := s.inputs.tail, now := s.now + 1, done := false,
      sync := (s.nextPorts.lineIn :: s.sync).take s.cfg.syncStages } := rfl

/-- A reset edge (spec/70_reset_and_hazards.md R240). -/
theorem step_of_reset {s : State} (h : s.nextPorts.rst = true) :
    step s = .next (s.consumePorts.shiftSync s.nextPorts.lineIn).applyReset := by
  simp [step, State.edge, h]

/-- An edge in `IDLE` that accepts a command (spec/40_commands.md R100). -/
theorem step_of_accept {s : State} (h : s.nextPorts.rst = false) (hs : s.st = .idle)
    (hv : s.nextPorts.cmdValid = true) : step s = exec (decode s.nextPorts.cmdWord) s.begun := by
  simp [step, State.edge, h, hs, hv, State.accept, State.begun]

/-- An edge in `IDLE` at which no command is offered (spec/40_commands.md R101). -/
theorem step_of_no_command {s : State} (h : s.nextPorts.rst = false) (hs : s.st = .idle)
    (hv : s.nextPorts.cmdValid = false) : step s = .next s.begun := by
  simp [step, State.edge, h, hs, hv, State.begun]

/-- An edge in `E_TX` (spec/42_encoder.md R145). -/
theorem step_of_encode {s : State} (h : s.nextPorts.rst = false) (hs : s.st = .eTx) :
    step s = .next s.begun.encodeStep := by
  simp [step, State.edge, h, hs, State.begun]

/-- An edge in a decoder state (spec/43_decoder.md R163). -/
theorem step_of_decode {s : State} (h : s.nextPorts.rst = false) (hs : s.st.isDecoder = true) :
    step s = .next (s.begun.decodeStep s.seen) := by
  have hst : s.consumePorts.st = s.st := rfl
  unfold step State.edge
  rw [hst]
  cases hq : s.st <;> simp_all [Seq.isDecoder, State.begun] <;> rfl

/-- Everything one step can be. -/
theorem step_cases {s t : State} (h : step s = .next t) :
    (s.nextPorts.rst = true ∧ t = (s.consumePorts.shiftSync s.nextPorts.lineIn).applyReset) ∨
    (s.nextPorts.rst = false ∧ s.st = .idle ∧ s.nextPorts.cmdValid = true ∧
      exec (decode s.nextPorts.cmdWord) s.begun = .next t) ∨
    (s.nextPorts.rst = false ∧ s.st = .idle ∧ s.nextPorts.cmdValid = false ∧ t = s.begun) ∨
    (s.nextPorts.rst = false ∧ s.st = .eTx ∧ t = s.begun.encodeStep) ∨
    (s.nextPorts.rst = false ∧ s.st.isDecoder = true ∧ t = s.begun.decodeStep s.seen) := by
  cases hr : s.nextPorts.rst with
  | true => exact .inl ⟨rfl, by simpa [step_of_reset hr] using h.symm⟩
  | false =>
    refine .inr ?_
    by_cases hi : s.st = .idle
    · cases hv : s.nextPorts.cmdValid with
      | true => exact .inl ⟨rfl, hi, rfl, by rw [← step_of_accept hr hi hv, h]⟩
      | false => exact .inr (.inl ⟨rfl, hi, rfl, by simpa [step_of_no_command hr hi hv] using h.symm⟩)
    · by_cases he : s.st = .eTx
      · exact .inr (.inr (.inl ⟨rfl, he, by simpa [step_of_encode hr he] using h.symm⟩))
      · have hd : s.st.isDecoder = true := by cases hq : s.st <;> simp_all [Seq.isDecoder]
        exact .inr (.inr (.inr ⟨rfl, hd, by simpa [step_of_decode hr hd] using h.symm⟩))

/-- What the acceptance of a command can be (spec/40_commands.md R100). -/
theorem exec_cases {i : Instr} {s t : State} (h : exec i s = .next t) :
    (i = .nop ∧ t = s.complete .nop) ∨ (i = .rsvd ∧ t = s.complete .reserved) ∨
    (∃ p, i = .txLf p ∧ t = s.startTransmit .longFrame p) ∨
    (∃ p, i = .txVf p ∧ t = s.startTransmit .variableFrame p) ∨
    (∃ d, i = .dec d ∧ t = s.startDecode false d) ∨ (∃ a, i = .decInf a ∧ t = s.startDecode true a) := by
  cases i <;> simp_all [exec, execNop, execRsvd, execTxLf, execTxVf, execDec, execDecInf, eq_comm]

end Sys2Proof.Machine
end

