-- ==== Sys2Proof/Laws/Windows.lean ====
section
/-! SUPPORT. Window membership and classification (spec/41_timing_windows.md R121 to R123). -/

namespace Sys2Proof

theorem Window.holds_iff (w : Window) (n : Nat) : w.holds n = true ↔ w.min ≤ n ∧ n ≤ w.max := by
  simp [Window.holds]

theorem classify_cons_of_holds {σ : Type} {w : Window} {n : Nat} (h : w.holds n = true) (x : σ)
    (l : List (Window × σ)) : classify n ((w, x) :: l) = some x := by
  simp [classify, h]

theorem classify_cons_of_not_holds {σ : Type} {w : Window} {n : Nat} (h : w.holds n = false) (x : σ)
    (l : List (Window × σ)) : classify n ((w, x) :: l) = classify n l := by
  simp [classify, h]

/-- Disjoint windows hold no length in common. -/
theorem Window.Disjoint.not_both {a b : Window} (h : a.Disjoint b) {n : Nat} (ha : a.holds n = true) :
    b.holds n = false := by
  rw [Window.holds_iff] at ha
  rw [Bool.eq_false_iff, Ne, Window.holds_iff]
  rcases h with h | h <;> omega

/-- The result of a classification against two windows. -/
theorem classify_two {σ : Type} (n : Nat) (a b : Window) (x y : σ) :
    classify n [(a, x), (b, y)] =
      if a.holds n = true then some x else if b.holds n = true then some y else none := rfl

/-- The result of a classification against one window. -/
theorem classify_one {σ : Type} (n : Nat) (a : Window) (x : σ) :
    classify n [(a, x)] = if a.holds n = true then some x else none := rfl

/-- Every window of a checked configuration holds only lengths from 1 to below the per-symbol limit
(spec/41_timing_windows.md R127 items 1 and 2). -/
theorem Config.Ok.holds_range {c : Config} (h : c.Ok) {w : Window} (hw : w ∈ c.windows) {n : Nat}
    (hn : w.holds n = true) : 1 ≤ n ∧ n < c.symLimit := by
  have h1 := h.1 w hw
  have h2 := h.2.1 w hw
  rw [Window.holds_iff] at hn
  omega

end Sys2Proof
end

