-- ==== Sys2Proof/Laws/Decoder.lean ====
section
/-! SUPPORT. Everything a decoder edge can do and read, said once (spec/43_decoder.md R163 to R182): `decodeStep_spec`. -/

namespace Sys2Proof.Machine

/-- The configuration and the decoder's registers of `s`, with every other register of `o`. -/
def State.decoderOn (s o : State) : State :=
  { o with
    cfg := s.cfg, st := s.st, cnt := s.cnt, wcnt := s.wcnt, tmo := s.tmo, inf := s.inf, bidx := s.bidx,
    acc := s.acc, dproto := s.dproto }

theorem State.decoderOn_self (s : State) : s.decoderOn s = s := rfl

/-- Two states with one configuration and the same decoder registers. -/
theorem State.decoderOn_eq {s o : State} (h : s.cfg = o.cfg) (h1 : s.st = o.st) (h2 : s.cnt = o.cnt)
    (h3 : s.wcnt = o.wcnt) (h4 : s.tmo = o.tmo) (h5 : s.inf = o.inf) (h6 : s.bidx = o.bidx) (h7 : s.acc = o.acc)
    (h8 : s.dproto = o.dproto) : s.decoderOn o = o := by
  unfold State.decoderOn
  rw [h, h1, h2, h3, h4, h5, h6, h7, h8]

/-- What an edge that keeps the decode in flight writes: the decoder's registers that are not latched operands. -/
def State.goOn (s : State) (st' : Seq) (cnt' : Nat) (wcnt' : Word) (bidx' : BitVec 5) (acc' : Word)
    (dp' : Protocol) : State :=
  { s with st := st', cnt := cnt', wcnt := wcnt', bidx := bidx', acc := acc', dproto := dp' }

/-- What an edge that calls `finish` writes; `cnt` is the run counter as the edge leaves it. -/
def State.finishAt (s : State) (cnt' : Nat) (o : ResOutcome) (p : Protocol) (c : BitVec 6) (v : Word)
    (r : Bool) : State :=
  ({ s with cnt := cnt' }).finish o p c v r

theorem State.countWait_eq (s : State) : s.countWait = { s with wcnt := s.countWait.wcnt } := by
  unfold State.countWait
  split <;> rfl

theorem State.decoderOn_countWait (s o : State) :
    (s.decoderOn o).countWait = { s.decoderOn o with wcnt := s.countWait.wcnt } := by
  rw [State.countWait_eq]
  congr 1
  simp only [State.countWait_wcnt]
  rfl

/-- Everything a decoder edge can do: keep the decode in flight or call `finish`. What it does depends on nothing but the
sample, the configuration and the decoder's registers, whatever the state `o` around them. A
PROTOCOL_ERROR ends a run and leaves 1 in `cnt`, a TIMEOUT leaves `cnt` as it was. -/
theorem State.decodeStep_spec (s : State) (a : Bool) (h : s.st.isDecoder = true) :
    (∃ st' cnt' wcnt' bidx' acc' dp', Seq.isDecoder st' = true ∧
      ∀ o, (s.decoderOn o).decodeStep a = (s.decoderOn o).goOn st' cnt' wcnt' bidx' acc' dp') ∨
    (∃ cnt' oc p c v r, oc ≠ ResOutcome.none ∧ (oc ≠ .success → oc = .timeout ∧ cnt' = s.cnt ∨ oc = .protocolError ∧ cnt' = s.truncCnt 1) ∧
      ∀ o, (s.decoderOn o).decodeStep a = (s.decoderOn o).finishAt cnt' oc p c v r) := by
  have hst : ∀ o, (s.decoderOn o).st = s.st := fun _ => rfl
  have hw : ∀ o, (s.decoderOn o).waitElapsed = s.waitElapsed := fun _ => rfl
  have hl : ∀ o, (s.decoderOn o).limit = s.limit := fun _ => rfl
  have hb : ∀ o, (s.decoderOn o).bidx = s.bidx := fun _ => rfl
  have hc : ∀ o, (s.decoderOn o).cfg = s.cfg := fun _ => rfl
  have hn : ∀ o, (s.decoderOn o).cnt = s.cnt := fun _ => rfl
  have hcw := s.decoderOn_countWait
  have stay : ∀ o, (s.decoderOn o).goOn s.st s.cnt s.countWait.wcnt s.bidx s.acc s.dproto =
    { s.decoderOn o with wcnt := s.countWait.wcnt } := fun _ => rfl
  have cont : ∀ o, (s.decoderOn o).count .cont =
    (s.decoderOn o).goOn s.st (s.truncCnt (s.cnt + 1)) s.wcnt s.bidx s.acc s.dproto := fun _ => rfl
  cases hs : s.st
  case idle => rw [hs] at h; cases h
  case eTx => rw [hs] at h; cases h
  case dWaitIdle =>
    have e : ∀ o, (s.decoderOn o).decodeStep a = (s.decoderOn o).stepWaitIdle a := fun o => by
      unfold State.decodeStep; rw [hst, hs]
    simp only [State.stepWaitIdle, hw, hcw] at e
    cases hq : s.waitElapsed <;> simp only [hq, Bool.false_eq_true, ↓reduceIte] at e
    case true => exact .inr ⟨s.cnt, .timeout, .longFrame, 0, 0, false, by decide, fun _ => .inl ⟨rfl, rfl⟩, e⟩
    case false =>
      cases a <;> simp only [Bool.false_eq_true, ↓reduceIte] at e
      case true => exact .inl ⟨s.st, _, _, _, _, _, h, fun o => (e o).trans (stay o).symm⟩
      case false => exact .inl ⟨.dWaitMark, s.cnt, s.countWait.wcnt, s.bidx, s.acc, s.dproto, rfl, e⟩
  case dWaitMark =>
    have e : ∀ o, (s.decoderOn o).decodeStep a = (s.decoderOn o).stepWaitMark a := fun o => by
      unfold State.decodeStep; rw [hst, hs]
    simp only [State.stepWaitMark, hw, hcw] at e
    cases hq : s.waitElapsed <;> simp only [hq, Bool.false_eq_true, ↓reduceIte] at e
    case true => exact .inr ⟨s.cnt, .timeout, .longFrame, 0, 0, false, by decide, fun _ => .inl ⟨rfl, rfl⟩, e⟩
    case false =>
      cases a <;> simp only [Bool.false_eq_true, ↓reduceIte] at e
      case true => exact .inl ⟨.dHdrMark, s.truncCnt 1, s.countWait.wcnt, s.bidx, s.acc, s.dproto, rfl, e⟩
      case false => exact .inl ⟨s.st, _, _, _, _, _, h, fun o => (e o).trans (stay o).symm⟩
  case dHdrMark =>
    have e : ∀ o, (s.decoderOn o).decodeStep a = (s.decoderOn o).stepHdrMark a := fun o => by
      unfold State.decodeStep; rw [hst, hs]
    simp only [State.stepHdrMark, hc, hn] at e
    cases hm : measured a true s.cfg.symLimit s.cnt <;> simp only [hm] at e
    case cont => exact .inl ⟨s.st, _, _, _, _, _, h, fun o => (e o).trans (cont o)⟩
    case limit => exact .inr ⟨s.cnt, .timeout, .longFrame, 0, 0, false, by decide, fun _ => .inl ⟨rfl, rfl⟩, e⟩
    case ended n =>
      cases hk : classify n s.cfg.hdrMarkWindows <;> simp only [hk] at e
      case none => exact .inr ⟨s.truncCnt 1, .protocolError, .longFrame, 0, 0, false, by decide, fun _ => .inr ⟨rfl, rfl⟩, e⟩
      case some x =>
        cases x <;> simp only at e
        case longFrame => exact .inl ⟨.dLfHdrSpace, s.truncCnt 1, s.wcnt, s.bidx, s.acc, .longFrame, rfl, e⟩
        case variableFrame => exact .inl ⟨.dVfHdrSpace, s.truncCnt 1, s.wcnt, s.bidx, s.acc, .variableFrame, rfl, e⟩
  case dLfHdrSpace =>
    have e : ∀ o, (s.decoderOn o).decodeStep a = (s.decoderOn o).stepLfHdrSpace a := fun o => by
      unfold State.decodeStep; rw [hst, hs]
    simp only [State.stepLfHdrSpace, hc, hn] at e
    cases hm : measured a false s.cfg.symLimit s.cnt <;> simp only [hm] at e
    case cont => exact .inl ⟨s.st, _, _, _, _, _, h, fun o => (e o).trans (cont o)⟩
    case limit => exact .inr ⟨s.cnt, .timeout, .longFrame, 0, 0, false, by decide, fun _ => .inl ⟨rfl, rfl⟩, e⟩
    case ended n =>
      cases hk : classify n s.cfg.lfHdrSpaceWindows <;> simp only [hk] at e
      case none => exact .inr ⟨s.truncCnt 1, .protocolError, .longFrame, 0, 0, false, by decide, fun _ => .inr ⟨rfl, rfl⟩, e⟩
      case some x =>
        cases x <;> simp only at e
        case data => exact .inl ⟨.dLfMark, s.truncCnt 1, s.wcnt, 0, s.acc, s.dproto, rfl, e⟩
        case rpt => exact .inl ⟨.dLfRptTrail, s.truncCnt 1, s.wcnt, s.bidx, s.acc, s.dproto, rfl, e⟩
  case dLfMark =>
    have e : ∀ o, (s.decoderOn o).decodeStep a = (s.decoderOn o).stepLfMark a := fun o => by
      unfold State.decodeStep; rw [hst, hs]
    simp only [State.stepLfMark, hc, hn] at e
    cases hm : measured a true s.cfg.symLimit s.cnt <;> simp only [hm] at e
    case cont => exact .inl ⟨s.st, _, _, _, _, _, h, fun o => (e o).trans (cont o)⟩
    case limit => exact .inr ⟨s.cnt, .timeout, .longFrame, 0, 0, false, by decide, fun _ => .inl ⟨rfl, rfl⟩, e⟩
    case ended n =>
      exact .inl ⟨.dLfSpace, s.truncCnt 1, s.wcnt, s.bidx, s.acc, s.dproto, rfl, e⟩
  case dLfSpace =>
    have e : ∀ o, (s.decoderOn o).decodeStep a = (s.decoderOn o).stepLfSpace a := fun o => by
      unfold State.decodeStep; rw [hst, hs]
    simp only [State.stepLfSpace, hc, hn, hb] at e
    cases hm : measured a false s.cfg.symLimit s.cnt <;> simp only [hm] at e
    case cont => exact .inl ⟨s.st, _, _, _, _, _, h, fun o => (e o).trans (cont o)⟩
    case limit => exact .inr ⟨s.cnt, .timeout, .longFrame, 0, 0, false, by decide, fun _ => .inl ⟨rfl, rfl⟩, e⟩
    case ended n =>
      cases hk : classify n s.cfg.lfSpaceWindows <;> simp only [hk] at e
      case none => exact .inr ⟨s.truncCnt 1, .protocolError, .longFrame, 0, 0, false, by decide, fun _ => .inr ⟨rfl, rfl⟩, e⟩
      case some x =>
        by_cases hi : s.bidx = 31 <;> simp only [hi, ↓reduceIte] at e
        case pos => exact .inl ⟨.dLfTrail, s.truncCnt 1, s.wcnt, s.bidx, writeBit s.acc 31 x, s.dproto, rfl, e⟩
        case neg => exact .inl ⟨.dLfMark, s.truncCnt 1, s.wcnt, s.bidx + 1, writeBit s.acc s.bidx x, s.dproto, rfl, e⟩
  case dLfTrail =>
    have e : ∀ o, (s.decoderOn o).decodeStep a = (s.decoderOn o).stepLfTrail a := fun o => by
      unfold State.decodeStep; rw [hst, hs]
    simp only [State.stepLfTrail, hc, hn] at e
    cases hm : measured a true s.cfg.symLimit s.cnt <;> simp only [hm] at e
    case cont => exact .inl ⟨s.st, _, _, _, _, _, h, fun o => (e o).trans (cont o)⟩
    case limit => exact .inr ⟨s.cnt, .timeout, .longFrame, 0, 0, false, by decide, fun _ => .inl ⟨rfl, rfl⟩, e⟩
    case ended n =>
      exact .inr ⟨s.truncCnt 1, .success, .longFrame, 32, s.acc, false, by decide, fun h => (h rfl).elim, e⟩
  case dLfRptTrail =>
    have e : ∀ o, (s.decoderOn o).decodeStep a = (s.decoderOn o).stepLfRptTrail a := fun o => by
      unfold State.decodeStep; rw [hst, hs]
    simp only [State.stepLfRptTrail, hc, hn] at e
    cases hm : measured a true s.cfg.symLimit s.cnt <;> simp only [hm] at e
    case cont => exact .inl ⟨s.st, _, _, _, _, _, h, fun o => (e o).trans (cont o)⟩
    case limit => exact .inr ⟨s.cnt, .timeout, .longFrame, 0, 0, false, by decide, fun _ => .inl ⟨rfl, rfl⟩, e⟩
    case ended n =>
      exact .inr ⟨s.truncCnt 1, .success, .longFrame, 0, 0, true, by decide, fun h => (h rfl).elim, e⟩
  case dVfHdrSpace =>
    have e : ∀ o, (s.decoderOn o).decodeStep a = (s.decoderOn o).stepVfHdrSpace a := fun o => by
      unfold State.decodeStep; rw [hst, hs]
    simp only [State.stepVfHdrSpace, hc, hn] at e
    cases hm : measured a false s.cfg.symLimit s.cnt <;> simp only [hm] at e
    case cont => exact .inl ⟨s.st, _, _, _, _, _, h, fun o => (e o).trans (cont o)⟩
    case limit => exact .inr ⟨s.cnt, .timeout, .longFrame, 0, 0, false, by decide, fun _ => .inl ⟨rfl, rfl⟩, e⟩
    case ended n =>
      cases hk : classify n s.cfg.vfHdrSpaceWindows <;> simp only [hk] at e
      case none => exact .inr ⟨s.truncCnt 1, .protocolError, .longFrame, 0, 0, false, by decide, fun _ => .inr ⟨rfl, rfl⟩, e⟩
      case some x =>
        exact .inl ⟨.dVfMark, s.truncCnt 1, s.wcnt, 0, s.acc, s.dproto, rfl, e⟩
  case dVfSpace =>
    have e : ∀ o, (s.decoderOn o).decodeStep a = (s.decoderOn o).stepVfSpace a := fun o => by
      unfold State.decodeStep; rw [hst, hs]
    simp only [State.stepVfSpace, hl, hn, hb] at e
    cases hm : measured a false s.limit s.cnt <;> simp only [hm] at e
    case cont => exact .inl ⟨s.st, _, _, _, _, _, h, fun o => (e o).trans (cont o)⟩
    case limit => 
      by_cases hi : s.bidx = 12 ∨ s.bidx = 15 <;> simp only [hi, ↓reduceIte] at e
      case pos => exact .inr ⟨s.cnt, .success, .variableFrame, s.bidx.zeroExtend 6, s.acc, false, by decide, fun h => (h rfl).elim, e⟩
      case neg => exact .inr ⟨s.cnt, .timeout, .longFrame, 0, 0, false, by decide, fun _ => .inl ⟨rfl, rfl⟩, e⟩
    case ended n =>
      exact .inl ⟨.dVfMark, s.truncCnt 1, s.wcnt, s.bidx, s.acc, s.dproto, rfl, e⟩
  case dVfMark =>
    have e : ∀ o, (s.decoderOn o).decodeStep a = (s.decoderOn o).stepVfMark a := fun o => by
      unfold State.decodeStep; rw [hst, hs]
    simp only [State.stepVfMark, hc, hn, hb] at e
    cases hm : measured a true s.cfg.symLimit s.cnt <;> simp only [hm] at e
    case cont => exact .inl ⟨s.st, _, _, _, _, _, h, fun o => (e o).trans (cont o)⟩
    case limit => exact .inr ⟨s.cnt, .timeout, .longFrame, 0, 0, false, by decide, fun _ => .inl ⟨rfl, rfl⟩, e⟩
    case ended n =>
      cases hk : classify n s.cfg.vfMarkWindows <;> simp only [hk] at e
      case none => exact .inr ⟨s.truncCnt 1, .protocolError, .longFrame, 0, 0, false, by decide, fun _ => .inr ⟨rfl, rfl⟩, e⟩
      case some x =>
        by_cases hi : s.bidx = 19 <;> simp only [hi, ↓reduceIte] at e
        case pos => exact .inr ⟨s.truncCnt 1, .success, .variableFrame, 20, orBit s.acc 19 x, false, by decide, fun h => (h rfl).elim, e⟩
        case neg => exact .inl ⟨.dVfSpace, s.truncCnt 1, s.wcnt, s.bidx + 1, orBit s.acc s.bidx x, s.dproto, rfl, e⟩

/-- Everything a decoder edge can do. -/
theorem State.decodeStep_cases (s : State) (a : Bool) (h : s.st.isDecoder = true) :
    (∃ st' cnt' wcnt' bidx' acc' dp', Seq.isDecoder st' = true ∧
      s.decodeStep a = s.goOn st' cnt' wcnt' bidx' acc' dp') ∨
    (∃ cnt' oc p c v r, oc ≠ ResOutcome.none ∧ (oc ≠ .success → oc = .timeout ∧ cnt' = s.cnt ∨ oc = .protocolError ∧ cnt' = s.truncCnt 1) ∧ s.decodeStep a = s.finishAt cnt' oc p c v r) := by
  rcases s.decodeStep_spec a h with ⟨st', c, w, b, ac, d, hd, e⟩ | ⟨c, oc, p, n, v, r, hn, hf, e⟩
  · exact .inl ⟨st', c, w, b, ac, d, hd, e s⟩
  · exact .inr ⟨c, oc, p, n, v, r, hn, hf, e s⟩

/-- Outside the decoder states `decode_step` does nothing. -/
theorem State.decodeStep_of_not_decoder (s : State) (a : Bool) (h : s.st.isDecoder = false) :
    s.decodeStep a = s := by
  unfold State.decodeStep
  cases hs : s.st <;> simp_all [Seq.isDecoder]

section
variable (s : State) (st' : Seq) (cnt' : Nat) (wcnt' : Word) (bidx' : BitVec 5) (acc' : Word) (dp' : Protocol)

@[simp] theorem State.goOn_cfg : (s.goOn st' cnt' wcnt' bidx' acc' dp').cfg = s.cfg := rfl
@[simp] theorem State.goOn_st : (s.goOn st' cnt' wcnt' bidx' acc' dp').st = st' := rfl
@[simp] theorem State.goOn_lineOut : (s.goOn st' cnt' wcnt' bidx' acc' dp').lineOut = s.lineOut := rfl
@[simp] theorem State.goOn_lineOe : (s.goOn st' cnt' wcnt' bidx' acc' dp').lineOe = s.lineOe := rfl
@[simp] theorem State.goOn_sync : (s.goOn st' cnt' wcnt' bidx' acc' dp').sync = s.sync := rfl
@[simp] theorem State.goOn_cnt : (s.goOn st' cnt' wcnt' bidx' acc' dp').cnt = cnt' := rfl
@[simp] theorem State.goOn_wcnt : (s.goOn st' cnt' wcnt' bidx' acc' dp').wcnt = wcnt' := rfl
@[simp] theorem State.goOn_tmo : (s.goOn st' cnt' wcnt' bidx' acc' dp').tmo = s.tmo := rfl
@[simp] theorem State.goOn_inf : (s.goOn st' cnt' wcnt' bidx' acc' dp').inf = s.inf := rfl
@[simp] theorem State.goOn_bidx : (s.goOn st' cnt' wcnt' bidx' acc' dp').bidx = bidx' := rfl
@[simp] theorem State.goOn_acc : (s.goOn st' cnt' wcnt' bidx' acc' dp').acc = acc' := rfl
@[simp] theorem State.goOn_dproto : (s.goOn st' cnt' wcnt' bidx' acc' dp').dproto = dp' := rfl
@[simp] theorem State.goOn_eproto : (s.goOn st' cnt' wcnt' bidx' acc' dp').eproto = s.eproto := rfl
@[simp] theorem State.goOn_epay : (s.goOn st' cnt' wcnt' bidx' acc' dp').epay = s.epay := rfl
@[simp] theorem State.goOn_ek : (s.goOn st' cnt' wcnt' bidx' acc' dp').ek = s.ek := rfl
@[simp] theorem State.goOn_done : (s.goOn st' cnt' wcnt' bidx' acc' dp').done = s.done := rfl
@[simp] theorem State.goOn_doneOp : (s.goOn st' cnt' wcnt' bidx' acc' dp').doneOp = s.doneOp := rfl
@[simp] theorem State.goOn_resOutcome : (s.goOn st' cnt' wcnt' bidx' acc' dp').resOutcome = s.resOutcome := rfl
@[simp] theorem State.goOn_resProtocol : (s.goOn st' cnt' wcnt' bidx' acc' dp').resProtocol = s.resProtocol := rfl
@[simp] theorem State.goOn_resBitCount : (s.goOn st' cnt' wcnt' bidx' acc' dp').resBitCount = s.resBitCount := rfl
@[simp] theorem State.goOn_resPayload : (s.goOn st' cnt' wcnt' bidx' acc' dp').resPayload = s.resPayload := rfl
@[simp] theorem State.goOn_resIsRepeat : (s.goOn st' cnt' wcnt' bidx' acc' dp').resIsRepeat = s.resIsRepeat := rfl
@[simp] theorem State.goOn_inputs : (s.goOn st' cnt' wcnt' bidx' acc' dp').inputs = s.inputs := rfl
@[simp] theorem State.goOn_now : (s.goOn st' cnt' wcnt' bidx' acc' dp').now = s.now := rfl

end

section
variable (s : State) (cnt' : Nat) (o : ResOutcome) (p : Protocol) (c : BitVec 6) (v : Word) (r : Bool)

@[simp] theorem State.finishAt_cfg : (s.finishAt cnt' o p c v r).cfg = s.cfg := by cases o <;> rfl
@[simp] theorem State.finishAt_st : (s.finishAt cnt' o p c v r).st = .idle := by cases o <;> rfl
@[simp] theorem State.finishAt_lineOut : (s.finishAt cnt' o p c v r).lineOut = s.lineOut := by cases o <;> rfl
@[simp] theorem State.finishAt_lineOe : (s.finishAt cnt' o p c v r).lineOe = s.lineOe := by cases o <;> rfl
@[simp] theorem State.finishAt_sync : (s.finishAt cnt' o p c v r).sync = s.sync := by cases o <;> rfl
@[simp] theorem State.finishAt_cnt : (s.finishAt cnt' o p c v r).cnt = cnt' := by cases o <;> rfl
@[simp] theorem State.finishAt_wcnt : (s.finishAt cnt' o p c v r).wcnt = s.wcnt := by cases o <;> rfl
@[simp] theorem State.finishAt_tmo : (s.finishAt cnt' o p c v r).tmo = s.tmo := by cases o <;> rfl
@[simp] theorem State.finishAt_inf : (s.finishAt cnt' o p c v r).inf = s.inf := by cases o <;> rfl
@[simp] theorem State.finishAt_bidx : (s.finishAt cnt' o p c v r).bidx = s.bidx := by cases o <;> rfl
@[simp] theorem State.finishAt_acc : (s.finishAt cnt' o p c v r).acc = s.acc := by cases o <;> rfl
@[simp] theorem State.finishAt_dproto : (s.finishAt cnt' o p c v r).dproto = s.dproto := by cases o <;> rfl
@[simp] theorem State.finishAt_eproto : (s.finishAt cnt' o p c v r).eproto = s.eproto := by cases o <;> rfl
@[simp] theorem State.finishAt_epay : (s.finishAt cnt' o p c v r).epay = s.epay := by cases o <;> rfl
@[simp] theorem State.finishAt_ek : (s.finishAt cnt' o p c v r).ek = s.ek := by cases o <;> rfl
@[simp] theorem State.finishAt_done : (s.finishAt cnt' o p c v r).done = true := by cases o <;> rfl
@[simp] theorem State.finishAt_doneOp : (s.finishAt cnt' o p c v r).doneOp = .decode := by cases o <;> rfl
@[simp] theorem State.finishAt_resOutcome : (s.finishAt cnt' o p c v r).resOutcome = o := by cases o <;> rfl
@[simp] theorem State.finishAt_inputs : (s.finishAt cnt' o p c v r).inputs = s.inputs := by cases o <;> rfl
@[simp] theorem State.finishAt_now : (s.finishAt cnt' o p c v r).now = s.now := by cases o <;> rfl

end

@[simp] theorem State.decodeStep_cfg (s : State) (a : Bool) : (s.decodeStep a).cfg = s.cfg := by
  cases h : s.st.isDecoder with
  | false => rw [s.decodeStep_of_not_decoder a h]
  | true => rcases s.decodeStep_cases a h with ⟨_, _, _, _, _, _, _, e⟩ | ⟨_, _, _, _, _, _, _, _, e⟩ <;> rw [e] <;> simp

@[simp] theorem State.decodeStep_lineOut (s : State) (a : Bool) : (s.decodeStep a).lineOut = s.lineOut := by
  cases h : s.st.isDecoder with
  | false => rw [s.decodeStep_of_not_decoder a h]
  | true => rcases s.decodeStep_cases a h with ⟨_, _, _, _, _, _, _, e⟩ | ⟨_, _, _, _, _, _, _, _, e⟩ <;> rw [e] <;> simp

@[simp] theorem State.decodeStep_lineOe (s : State) (a : Bool) : (s.decodeStep a).lineOe = s.lineOe := by
  cases h : s.st.isDecoder with
  | false => rw [s.decodeStep_of_not_decoder a h]
  | true => rcases s.decodeStep_cases a h with ⟨_, _, _, _, _, _, _, e⟩ | ⟨_, _, _, _, _, _, _, _, e⟩ <;> rw [e] <;> simp

@[simp] theorem State.decodeStep_sync (s : State) (a : Bool) : (s.decodeStep a).sync = s.sync := by
  cases h : s.st.isDecoder with
  | false => rw [s.decodeStep_of_not_decoder a h]
  | true => rcases s.decodeStep_cases a h with ⟨_, _, _, _, _, _, _, e⟩ | ⟨_, _, _, _, _, _, _, _, e⟩ <;> rw [e] <;> simp

@[simp] theorem State.decodeStep_tmo (s : State) (a : Bool) : (s.decodeStep a).tmo = s.tmo := by
  cases h : s.st.isDecoder with
  | false => rw [s.decodeStep_of_not_decoder a h]
  | true => rcases s.decodeStep_cases a h with ⟨_, _, _, _, _, _, _, e⟩ | ⟨_, _, _, _, _, _, _, _, e⟩ <;> rw [e] <;> simp

@[simp] theorem State.decodeStep_inf (s : State) (a : Bool) : (s.decodeStep a).inf = s.inf := by
  cases h : s.st.isDecoder with
  | false => rw [s.decodeStep_of_not_decoder a h]
  | true => rcases s.decodeStep_cases a h with ⟨_, _, _, _, _, _, _, e⟩ | ⟨_, _, _, _, _, _, _, _, e⟩ <;> rw [e] <;> simp

@[simp] theorem State.decodeStep_eproto (s : State) (a : Bool) : (s.decodeStep a).eproto = s.eproto := by
  cases h : s.st.isDecoder with
  | false => rw [s.decodeStep_of_not_decoder a h]
  | true => rcases s.decodeStep_cases a h with ⟨_, _, _, _, _, _, _, e⟩ | ⟨_, _, _, _, _, _, _, _, e⟩ <;> rw [e] <;> simp

@[simp] theorem State.decodeStep_epay (s : State) (a : Bool) : (s.decodeStep a).epay = s.epay := by
  cases h : s.st.isDecoder with
  | false => rw [s.decodeStep_of_not_decoder a h]
  | true => rcases s.decodeStep_cases a h with ⟨_, _, _, _, _, _, _, e⟩ | ⟨_, _, _, _, _, _, _, _, e⟩ <;> rw [e] <;> simp

@[simp] theorem State.decodeStep_ek (s : State) (a : Bool) : (s.decodeStep a).ek = s.ek := by
  cases h : s.st.isDecoder with
  | false => rw [s.decodeStep_of_not_decoder a h]
  | true => rcases s.decodeStep_cases a h with ⟨_, _, _, _, _, _, _, e⟩ | ⟨_, _, _, _, _, _, _, _, e⟩ <;> rw [e] <;> simp

@[simp] theorem State.decodeStep_inputs (s : State) (a : Bool) : (s.decodeStep a).inputs = s.inputs := by
  cases h : s.st.isDecoder with
  | false => rw [s.decodeStep_of_not_decoder a h]
  | true => rcases s.decodeStep_cases a h with ⟨_, _, _, _, _, _, _, e⟩ | ⟨_, _, _, _, _, _, _, _, e⟩ <;> rw [e] <;> simp

@[simp] theorem State.decodeStep_now (s : State) (a : Bool) : (s.decodeStep a).now = s.now := by
  cases h : s.st.isDecoder with
  | false => rw [s.decodeStep_of_not_decoder a h]
  | true => rcases s.decodeStep_cases a h with ⟨_, _, _, _, _, _, _, e⟩ | ⟨_, _, _, _, _, _, _, _, e⟩ <;> rw [e] <;> simp

end Sys2Proof.Machine
end

