-- ==== Sys2Proof/Laws/DecoderStates.lean ====
section
/-! SUPPORT. What each decoder state does at an edge that ends its run or reaches its limit, in the registers' own terms
(spec/43_decoder.md R163 to R182); the classifications themselves stay as `classify`. -/

namespace Sys2Proof.Machine

/-! ### The run counter -/

theorem State.truncCnt_one {s : State} (h : s.cfg.Ok) : s.truncCnt 1 = 1 := by
  have h2 : 2 ≤ s.cfg.cntW := h.2.2.2.2.2.2.2.1.1
  exact Nat.mod_eq_of_lt (Nat.one_lt_two_pow (by omega))

theorem State.truncCnt_of_lt {s : State} (h : s.cfg.Ok) {n : Nat} (hn : n < s.cfg.maxLimit) : s.truncCnt n = n :=
  Nat.mod_eq_of_lt (lt_of_lt_of_le hn h.2.2.2.2.2.2.2.1.2)

theorem State.limit_le (s : State) : s.limit ≤ s.cfg.maxLimit := by
  unfold State.limit Config.maxLimit
  split_ifs <;> omega

theorem State.limit_of_ne {s : State} (h : s.st ≠ .dVfSpace) : s.limit = s.cfg.symLimit := by
  simp [State.limit, h]

theorem State.two_le_limit {s : State} (h : s.cfg.Ok) : 2 ≤ s.limit := by
  have hl := h.2.2.2.2.2.2.1
  unfold State.limit
  split_ifs <;> omega

theorem State.limit_le_pow {s : State} (h : s.cfg.Ok) : s.limit ≤ 2 ^ s.cfg.cntW :=
  le_trans s.limit_le h.2.2.2.2.2.2.2.1.2

theorem State.count_ended {s : State} (h : s.cfg.Ok) (n : Nat) : s.count (.ended n) = { s with cnt := 1 } := by
  simp only [State.count, State.truncCnt_one h]

/-! ### `finish` -/

theorem State.finishTimeout_eq (s : State) : s.finishTimeout = s.endedFailed .timeout := rfl

theorem State.finishProtocolError_eq (s : State) : s.finishProtocolError = s.endedFailed .protocolError := rfl

theorem State.finish_success (s : State) (p : Protocol) (c : BitVec 6) (v : Word) (r : Bool) :
    s.finish .success p c v r = s.ended .success p c v r := rfl

/-! ### Writing one bit -/

theorem getLsbD_one_shl (n i : Nat) : (1#32 <<< n).getLsbD i = (decide (i < 32) && decide (i = n)) := by
  rw [BitVec.getLsbD_shiftLeft, BitVec.getLsbD_one]
  by_cases e : i = n
  · simp [e]
  · by_cases e2 : i < n
    · simp [e, e2]
    · simp [e, e2, show i - n ≠ 0 by omega]

theorem getLsbD_writeBit (v : Word) (b : BitVec 5) (x : Bool) {i : Nat} (hi : i < 32) :
    (writeBit v b x).getLsbD i = if i = b.toNat then x else v.getLsbD i := by
  unfold writeBit
  cases x
  · simp only [Bool.false_eq_true, if_false, BitVec.getLsbD_and, BitVec.getLsbD_not, getLsbD_one_shl, hi, decide_true,
      Bool.true_and]
    by_cases e : i = b.toNat <;> simp [e]
  · simp only [if_true, BitVec.getLsbD_or, getLsbD_one_shl, hi, decide_true, Bool.true_and]
    by_cases e : i = b.toNat <;> simp [e]

theorem getLsbD_orBit (v : Word) (b : BitVec 5) (x : Bool) {i : Nat} (hi : i < 32) :
    (orBit v b x).getLsbD i = (v.getLsbD i || (decide (i = b.toNat) && x)) := by
  have e : (BitVec.ofBool x).zeroExtend 32 = if x then 1#32 else 0#32 := by cases x <;> decide
  unfold orBit
  rw [e, BitVec.getLsbD_or]
  cases x
  · simp
  · simp only [if_true, getLsbD_one_shl, hi, decide_true, Bool.true_and, Bool.and_true]

/-! ### Below the limit -/

theorem measured_cont {L : Bool} {lim c : Nat} (h : c + 1 < lim) : measured L L lim c = .cont := by
  simp [measured, h]

theorem measured_limit {L : Bool} {lim c : Nat} (h : lim ≤ c + 1) : measured L L lim c = .limit := by
  simp [measured, h]

theorem measured_ended {L : Bool} (lim c : Nat) : measured (!L) L lim c = .ended c := by
  simp [measured]

/-- A sample at the counted level, below the limit, only counts. -/
theorem State.decodeStep_cont {s : State} {L : Bool} (hL : s.st.counts = some L) (h : s.cnt + 1 < s.limit) :
    s.decodeStep L = { s with cnt := s.truncCnt (s.cnt + 1) } := by
  have hb : s.st ≠ .dVfSpace → s.cnt + 1 < s.cfg.symLimit := by
    intro hne; simpa [State.limit, hne] using h
  cases hq : s.st <;> rw [hq] at hL hb <;> simp only [Seq.counts, reduceCtorEq, Option.some.injEq] at hL <;>
    subst hL <;>
    simp [State.decodeStep, hq, State.stepHdrMark, State.stepLfHdrSpace, State.stepLfMark, State.stepLfSpace,
      State.stepLfTrail, State.stepLfRptTrail, State.stepVfHdrSpace, State.stepVfSpace, State.stepVfMark,
      measured_cont, hb, h, State.count]

/-- The states that measure are decoder states. -/
theorem Seq.isDecoder_of_counts {q : Seq} {L : Bool} (h : q.counts = some L) : q.isDecoder = true := by
  cases q <;> simp_all [Seq.counts, Seq.isDecoder]

/-- The same in a block of a checked configuration, whose counter does not wrap below the limit
(spec/41_timing_windows.md R127 item 8). -/
theorem State.decodeStep_count {s : State} {L : Bool} (ho : s.cfg.Ok) (hL : s.st.counts = some L)
    (h : s.cnt + 1 < s.limit) : s.decodeStep L = { s with cnt := s.cnt + 1 } := by
  rw [State.decodeStep_cont hL h, State.truncCnt_of_lt ho (lt_of_lt_of_le h s.limit_le)]

/-! ### At the limit -/

/-- At the limit every measuring state but a block boundary's ends the decode with TIMEOUT
(spec/41_timing_windows.md R124, R125). -/
theorem State.decodeStep_limit {s : State} {L : Bool} (hL : s.st.counts = some L) (h : s.limit ≤ s.cnt + 1)
    (hb : ¬ (s.st = .dVfSpace ∧ (s.bidx = 12 ∨ s.bidx = 15))) : s.decodeStep L = s.endedFailed .timeout := by
  have hb' : s.st ≠ .dVfSpace → s.cfg.symLimit ≤ s.cnt + 1 := fun hne => by rwa [State.limit_of_ne hne] at h
  unfold State.decodeStep
  cases hs : s.st <;> rw [hs] at hL hb hb' <;> simp only [Seq.counts, reduceCtorEq, Option.some.injEq] at hL <;>
    subst hL
  case dVfSpace =>
    simp only [true_and] at hb
    simp only [State.stepVfSpace, measured, h, if_true, if_neg hb]
    rfl
  all_goals
    have hc := hb' (by decide)
    simp only [State.stepHdrMark, State.stepLfHdrSpace, State.stepLfMark, State.stepLfSpace, State.stepLfTrail,
      State.stepLfRptTrail, State.stepVfHdrSpace, State.stepVfMark, measured, hc, if_true]
    rfl

/-- A block boundary's wait ends the frame with the bits it has (spec/43_decoder.md R182). -/
theorem State.decodeStep_blockEnd {s : State} (hs : s.st = .dVfSpace) (hb : s.bidx = 12 ∨ s.bidx = 15)
    (h : s.limit ≤ s.cnt + 1) :
    s.decodeStep false = s.ended .success .variableFrame (s.bidx.zeroExtend 6) s.acc false := by
  unfold State.decodeStep
  rw [hs]
  simp only [State.stepVfSpace, measured, h, if_true, if_pos hb]
  rfl

/-! ### The end of a run -/

theorem State.decodeStep_hdrMark_ended {s : State} (ho : s.cfg.Ok) (hs : s.st = .dHdrMark) :
    s.decodeStep false =
      match classify s.cnt s.cfg.hdrMarkWindows with
      | some .longFrame => { s with cnt := 1, dproto := .longFrame, st := .dLfHdrSpace }
      | some .variableFrame => { s with cnt := 1, dproto := .variableFrame, st := .dVfHdrSpace }
      | none => ({ s with cnt := 1 } : State).endedFailed .protocolError := by
  unfold State.decodeStep
  rw [hs]
  simp only [State.stepHdrMark, measured, Bool.false_eq_true, if_false, State.count_ended ho]
  rfl

theorem State.decodeStep_lfHdrSpace_ended {s : State} (ho : s.cfg.Ok) (hs : s.st = .dLfHdrSpace) :
    s.decodeStep true =
      match classify s.cnt s.cfg.lfHdrSpaceWindows with
      | some .data => { s with cnt := 1, bidx := 0, st := .dLfMark }
      | some .rpt => { s with cnt := 1, st := .dLfRptTrail }
      | none => ({ s with cnt := 1 } : State).endedFailed .protocolError := by
  unfold State.decodeStep
  rw [hs]
  simp only [State.stepLfHdrSpace, measured, Bool.true_eq_false, if_false, State.count_ended ho]
  rfl

theorem State.decodeStep_lfRptTrail_ended {s : State} (ho : s.cfg.Ok) (hs : s.st = .dLfRptTrail) :
    s.decodeStep false = ({ s with cnt := 1 } : State).ended .success .longFrame 0 0 true := by
  unfold State.decodeStep
  rw [hs]
  simp only [State.stepLfRptTrail, measured, Bool.false_eq_true, if_false, State.count_ended ho]
  rfl

theorem State.decodeStep_lfMark_ended {s : State} (ho : s.cfg.Ok) (hs : s.st = .dLfMark) :
    s.decodeStep false = { s with cnt := 1, st := .dLfSpace } := by
  unfold State.decodeStep
  rw [hs]
  simp only [State.stepLfMark, measured, Bool.false_eq_true, if_false, State.count_ended ho]

theorem State.decodeStep_lfSpace_ended {s : State} (ho : s.cfg.Ok) (hs : s.st = .dLfSpace) :
    s.decodeStep true =
      match classify s.cnt s.cfg.lfSpaceWindows with
      | none => ({ s with cnt := 1 } : State).endedFailed .protocolError
      | some b =>
        if s.bidx = 31 then { s with cnt := 1, acc := writeBit s.acc s.bidx b, st := .dLfTrail }
        else { s with cnt := 1, acc := writeBit s.acc s.bidx b, bidx := s.bidx + 1, st := .dLfMark } := by
  unfold State.decodeStep
  rw [hs]
  simp only [State.stepLfSpace, measured, Bool.true_eq_false, if_false, State.count_ended ho]
  rfl

theorem State.decodeStep_lfTrail_ended {s : State} (ho : s.cfg.Ok) (hs : s.st = .dLfTrail) :
    s.decodeStep false = ({ s with cnt := 1 } : State).ended .success .longFrame 32 s.acc false := by
  unfold State.decodeStep
  rw [hs]
  simp only [State.stepLfTrail, measured, Bool.false_eq_true, if_false, State.count_ended ho]
  rfl

theorem State.decodeStep_vfHdrSpace_ended {s : State} (ho : s.cfg.Ok) (hs : s.st = .dVfHdrSpace) :
    s.decodeStep true =
      if s.cfg.wVfHdrSpace.holds s.cnt = true then { s with cnt := 1, bidx := 0, st := .dVfMark }
      else ({ s with cnt := 1 } : State).endedFailed .protocolError := by
  unfold State.decodeStep
  rw [hs]
  simp only [State.stepVfHdrSpace, measured, Bool.true_eq_false, if_false, State.count_ended ho,
    Config.vfHdrSpaceWindows, classify_one]
  split_ifs <;> rfl

theorem State.decodeStep_vfMark_ended {s : State} (ho : s.cfg.Ok) (hs : s.st = .dVfMark) :
    s.decodeStep false =
      match classify s.cnt s.cfg.vfMarkWindows with
      | none => ({ s with cnt := 1 } : State).endedFailed .protocolError
      | some b =>
        if s.bidx = 19 then
          ({ s with cnt := 1 } : State).ended .success .variableFrame 20 (orBit s.acc s.bidx b) false
        else { s with cnt := 1, acc := orBit s.acc s.bidx b, bidx := s.bidx + 1, st := .dVfSpace } := by
  unfold State.decodeStep
  rw [hs]
  simp only [State.stepVfMark, measured, Bool.false_eq_true, if_false, State.count_ended ho]
  rfl

theorem State.decodeStep_vfSpace_ended {s : State} (ho : s.cfg.Ok) (hs : s.st = .dVfSpace) :
    s.decodeStep true = { s with cnt := 1, st := .dVfMark } := by
  unfold State.decodeStep
  rw [hs]
  simp only [State.stepVfSpace, measured, Bool.true_eq_false, if_false, State.count_ended ho]

/-! ### The wait states -/

theorem State.decodeStep_waitIdle {s : State} (hs : s.st = .dWaitIdle) (a : Bool) :
    s.decodeStep a =
      if s.waitElapsed then s.endedFailed .timeout
      else { s with wcnt := if s.inf then s.wcnt else s.wcnt + 1, st := if a then .dWaitIdle else .dWaitMark } := by
  obtain ⟨_, _, _, _, _, _, _, _, inf, _, _, _, _, _, _, _, _, _, _, _, _, _, _, _⟩ := s
  subst hs
  unfold State.decodeStep State.stepWaitIdle State.countWait
  cases a <;> cases inf <;> rfl

theorem State.decodeStep_waitMark {s : State} (ho : s.cfg.Ok) (hs : s.st = .dWaitMark) (a : Bool) :
    s.decodeStep a =
      if s.waitElapsed then s.endedFailed .timeout
      else { s with
        wcnt := if s.inf then s.wcnt else s.wcnt + 1
        st := if a then .dHdrMark else .dWaitMark
        cnt := if a then 1 else s.cnt } := by
  have h1 := State.truncCnt_one ho
  obtain ⟨_, _, _, _, _, _, _, _, inf, _, _, _, _, _, _, _, _, _, _, _, _, _, _, _⟩ := s
  subst hs
  unfold State.decodeStep State.stepWaitMark State.countWait
  simp only [h1]
  cases a <;> cases inf <;> rfl

/-! ### The budget registers -/

/-- `u` with other budget registers (spec/10_state.md R26). -/
def State.withBudget (u : State) (t w : Word) (i : Bool) : State := { u with tmo := t, wcnt := w, inf := i }

/-- No measuring state reads the budget (spec/43_decoder.md R166). -/
theorem State.decodeStep_withBudget {u : State} (h : u.st.counts ≠ none) (t w : Word) (i a : Bool) :
    (u.withBudget t w i).decodeStep a = (u.decodeStep a).withBudget t w i := by
  have hst : (u.withBudget t w i).st = u.st := rfl
  have hcfg : (u.withBudget t w i).cfg = u.cfg := rfl
  have hcnt : (u.withBudget t w i).cnt = u.cnt := rfl
  have hbidx : (u.withBudget t w i).bidx = u.bidx := rfl
  have hlim : (u.withBudget t w i).limit = u.limit := rfl
  unfold State.decodeStep
  rw [hst]
  cases hs : u.st <;> rw [hs] at h
  case dWaitIdle => exact absurd rfl h
  case dWaitMark => exact absurd rfl h
  case dHdrMark =>
    simp only [State.stepHdrMark, hcfg, hcnt]
    rcases measured a true u.cfg.symLimit u.cnt with _ | _ | n
    · rfl
    · rfl
    · dsimp only
      rcases classify n u.cfg.hdrMarkWindows with _ | _ | _ <;> rfl
  case dLfHdrSpace =>
    simp only [State.stepLfHdrSpace, hcfg, hcnt]
    rcases measured a false u.cfg.symLimit u.cnt with _ | _ | n
    · rfl
    · rfl
    · dsimp only
      rcases classify n u.cfg.lfHdrSpaceWindows with _ | _ | _ <;> rfl
  case dLfMark =>
    simp only [State.stepLfMark, hcfg, hcnt]
    rcases measured a true u.cfg.symLimit u.cnt with _ | _ | n <;> rfl
  case dLfSpace =>
    simp only [State.stepLfSpace, hcfg, hcnt, hbidx]
    rcases measured a false u.cfg.symLimit u.cnt with _ | _ | n
    · rfl
    · rfl
    · dsimp only
      rcases classify n u.cfg.lfSpaceWindows with _ | b
      · rfl
      · dsimp only
        split_ifs <;> rfl
  case dLfTrail =>
    simp only [State.stepLfTrail, hcfg, hcnt]
    rcases measured a true u.cfg.symLimit u.cnt with _ | _ | n <;> rfl
  case dLfRptTrail =>
    simp only [State.stepLfRptTrail, hcfg, hcnt]
    rcases measured a true u.cfg.symLimit u.cnt with _ | _ | n <;> rfl
  case dVfHdrSpace =>
    simp only [State.stepVfHdrSpace, hcfg, hcnt]
    rcases measured a false u.cfg.symLimit u.cnt with _ | _ | n
    · rfl
    · rfl
    · dsimp only
      rcases classify n u.cfg.vfHdrSpaceWindows with _ | _ <;> rfl
  case dVfSpace =>
    simp only [State.stepVfSpace, hlim, hcnt, hbidx]
    rcases measured a false u.limit u.cnt with _ | _ | n
    · rfl
    · dsimp only
      split_ifs <;> rfl
    · rfl
  case dVfMark =>
    simp only [State.stepVfMark, hcfg, hcnt, hbidx]
    rcases measured a true u.cfg.symLimit u.cnt with _ | _ | n
    · rfl
    · rfl
    · dsimp only
      rcases classify n u.cfg.vfMarkWindows with _ | b
      · rfl
      · dsimp only
        split_ifs <;> rfl

end Sys2Proof.Machine
end

