-- ==== Sys2Proof/Laws/PerInstr.lean ====
section
/-! SUPPORT. Statements about every command as syntax, one lemma per constructor. -/

namespace Sys2Proof.Laws.EncodesToItsRow

/-- The command's encoding selects the row of the command map that bears its mnemonic, and no other
(spec/30_encoding.md R78, R81). -/
def Statement (i : Sys2Proof.Instr) : Prop :=
  ∃ r, (opcodeTable.filter fun r => r.selects (encode i)) = [r] ∧ r.mnemonic = i.mnemonic

/-- Every mask of the command map reads only the fields `op` and `mod`, so the rows a word selects depend on these. -/
theorem selects_packWord (op : BitVec 2) (md : BitVec 1) (a : Word) :
    (opcodeTable.filter fun r => r.selects (packWord op md 0#5 a)) =
      opcodeTable.filter fun r => r.selects (packWord op md 0#5 0#32) := by
  have e3 : (0x0000000003#40 : CmdWord) = packWord 0b11#2 0#1 0#5 0#32 := by decide
  have e7 : (0x0000000007#40 : CmdWord) = packWord 0b11#2 1#1 0#5 0#32 := by decide
  apply List.filter_congr
  intro r hr
  simp only [opcodeTable, List.mem_cons, List.not_mem_nil, or_false] at hr
  rcases hr with rfl | rfl | rfl | rfl | rfl | rfl <;>
    simp [OpcodeRow.selects, e3, e7, packWord_and]

theorem nop : Statement .nop := ⟨_, rfl, rfl⟩

theorem txLf (payload : Word) : Statement (.txLf payload) :=
  ⟨⟨"TX.LF", 0x0000000001#40, 0x0000000007#40⟩, (selects_packWord 0b01#2 0#1 payload).trans (by decide), rfl⟩

theorem txVf (payload : Word) : Statement (.txVf payload) :=
  ⟨⟨"TX.VF", 0x0000000005#40, 0x0000000007#40⟩, (selects_packWord 0b01#2 1#1 payload).trans (by decide), rfl⟩

theorem dec (timeout : Word) : Statement (.dec timeout) :=
  ⟨⟨"DEC", 0x0000000002#40, 0x0000000007#40⟩, (selects_packWord 0b10#2 0#1 timeout).trans (by decide), rfl⟩

theorem decInf (arg : Word) : Statement (.decInf arg) :=
  ⟨⟨"DEC.INF", 0x0000000006#40, 0x0000000007#40⟩, (selects_packWord 0b10#2 1#1 arg).trans (by decide), rfl⟩

theorem rsvd : Statement .rsvd := ⟨_, rfl, rfl⟩

end Sys2Proof.Laws.EncodesToItsRow
end

