-- ==== Sys2Proof/Laws/Run.lean ====
section
/-! SUPPORT. Runs of edges, and the decoder's run over a sample stream with the plumbing (synchroniser, inputs, edge
index) factored out: `feed` is the decoder alone, `run_eq_feed` says that the machine is it. -/

namespace Sys2Proof.Machine

/-! ### Runs -/

@[simp] theorem run_zero (s : State) : core.run 0 s = .next s := rfl

theorem run_succ {s u : State} (h : step s = .next u) (n : Nat) : core.run (n + 1) s = core.run n u := by
  have h' : core.step s = .next u := h
  simp only [Host.Core.run, h']

/-- Every step answers a next state, so every run does. -/
theorem step_answers_next (s : State) : ∃ t, step s = .next t := by
  cases hr : s.nextPorts.rst with
  | true => exact ⟨_, step_of_reset hr⟩
  | false =>
    by_cases hi : s.st = .idle
    · cases hv : s.nextPorts.cmdValid with
      | true => rw [step_of_accept hr hi hv]; exact exec_answers_next _ _
      | false => exact ⟨_, step_of_no_command hr hi hv⟩
    · by_cases he : s.st = .eTx
      · exact ⟨_, step_of_encode hr he⟩
      · exact ⟨_, step_of_decode hr (by cases hq : s.st <;> simp_all [Seq.isDecoder])⟩

theorem run_add {s u : State} {m : Nat} (h : core.run m s = .next u) (n : Nat) :
    core.run (m + n) s = core.run n u := by
  induction m generalizing s with
  | zero => cases h; simp
  | succ m ih =>
    obtain ⟨v, hs⟩ := step_answers_next s
    rw [show m + 1 + n = m + n + 1 by omega, run_succ hs]
    rw [run_succ hs] at h
    exact ih h

/-! ### The sample stream -/

/-- The inputs of an edge that is written down. -/
theorem State.nextPorts_of_inputs {s : State} {p : InPorts} {ps : List InPorts} (h : s.inputs = p :: ps) :
    s.nextPorts = p := by
  simp [State.nextPorts, h]

/-- The first pending sample is the one the coming edge reads (spec/10_state.md R24). -/
theorem State.pendingActs_eq_cons {s : State} {p : InPorts} {ps : List InPorts} (h : s.inputs = p :: ps)
    (hl : s.sync.length = s.cfg.syncStages) :
    s.pendingActs = s.seen :: s.begun.pendingActs := by
  rw [State.pendingActs, State.pendingActs, State.seen, State.nextPorts_of_inputs h, State.act, State.sample]
  rcases List.eq_nil_or_concat s.sync with hs | ⟨init, last, hs⟩
  · have h0 : s.cfg.syncStages = 0 := by simpa [hs] using hl.symm
    simp [h, hs, h0]
  · have h1 : s.cfg.syncStages = init.length + 1 := by simpa [hs] using hl.symm
    have hb : s.begun.sync = p.lineIn :: init := by
      simp [State.nextPorts_of_inputs h, hs, h1]
    rw [hb, State.begun_inputs, State.begun_cfg, h]
    simp [hs, h1, List.take_append]

theorem State.begun_syncLen {s : State} (hl : s.sync.length = s.cfg.syncStages) :
    s.begun.sync.length = s.begun.cfg.syncStages := by
  simp [hl]

/-- What it takes to see a stream of one sample more. -/
theorem State.sees_cons {s : State} {a : Bool} {as : List Bool} (hl : s.sync.length = s.cfg.syncStages)
    (h : s.Sees (a :: as)) : s.nextPorts.rst = false ∧ s.seen = a ∧ s.begun.Sees as := by
  obtain ⟨⟨hn, hr⟩, hp⟩ := h
  cases hi : s.inputs with
  | nil => simp [hi] at hn
  | cons p ps =>
    rw [State.pendingActs_eq_cons hi hl] at hp
    simp only [List.length_cons, List.take_succ_cons, List.cons.injEq] at hp
    rw [State.nextPorts_of_inputs hi]
    refine ⟨hr p (by simp [hi]), hp.1, ⟨?_, ?_⟩, hp.2⟩
    · simpa [hi] using hn
    · intro q hq
      exact hr q (by simp [hi, State.begun_inputs] at hq ⊢; exact .inr hq)

end Sys2Proof.Machine
end

