-- ==== Sys2Proof/Laws/Waveform.lean ====
section
/-! SUPPORT. Lengths and first elements of bursts, gaps and bits (spec/42_encoder.md R140 to R143). -/

namespace Sys2Proof

variable (c : Config)

@[simp] theorem Config.length_on (n : Nat) : (c.on n).length = n := by simp [Config.on]

@[simp] theorem Config.length_off (n : Nat) : (c.off n).length = n := by simp [Config.off]

@[simp] theorem Config.length_burst (n h : Nat) : (c.burst n h).length = 2 * n * h := by
  simp [Config.burst, List.length_flatten]
  ring

@[simp] theorem Config.length_lfBit (b : Bool) :
    (c.lfBit b).length = 2 * c.lfBitPulses * c.lfH + c.lfGap b := by simp [Config.lfBit]

@[simp] theorem Config.length_vfBit (b : Bool) :
    (c.vfBit b).length = 2 * c.vfPulses b * c.vfH + c.vfGap := by simp [Config.vfBit]

/-- A burst of at least one pulse with a half-period of at least one cycle begins with the ON level. -/
theorem Config.burst_head {n h : Nat} (hn : 1 ≤ n) (hh : 1 ≤ h) (rest : List Level) :
    (c.burst n h ++ rest).head? = some c.txOnLevel := by
  obtain ⟨n, rfl⟩ : ∃ k, n = k + 1 := ⟨n - 1, by omega⟩
  obtain ⟨h, rfl⟩ : ∃ k, h = k + 1 := ⟨h - 1, by omega⟩
  simp [Config.burst, Config.on, List.replicate_succ]

/-- The total of a bit-dependent length over `n` bits depends on the payload only through its number of ones. -/
theorem sum_by_bit (n a b : Nat) (p : Word) :
    ((List.range n).map fun i => if payloadBit p i then a else b).sum
      = popcount n p * a + (n - popcount n p) * b := by
  have key : ∀ l : List Nat, (l.map fun i => if payloadBit p i then a else b).sum
      = l.countP (payloadBit p) * a + (l.length - l.countP (payloadBit p)) * b := by
    intro l
    induction l with
    | nil => simp
    | cons i l ih =>
      have hle := List.countP_le_length (p := payloadBit p) (l := l)
      by_cases hi : payloadBit p i
      · simp [hi, ih]; ring
      · simp only [List.map_cons, hi, Bool.false_eq_true, ↓reduceIte, List.sum_cons, ih,
          not_false_eq_true, List.countP_cons_of_neg, List.length_cons]
        rw [show l.length + 1 - l.countP (payloadBit p) = l.length - l.countP (payloadBit p) + 1 by omega]
        ring
  simpa [popcount] using key (List.range n)

theorem popcount_le (n : Nat) (p : Word) : popcount n p ≤ n := by
  simpa [popcount] using List.countP_le_length (p := payloadBit p) (l := List.range n)

end Sys2Proof
end

