-- ==== Sys2Proof/Laws/Segments.lean ====
section
/-! SUPPORT. Reading one cycle of a waveform or an envelope (spec/42_encoder.md R140 to R142, R149): a burst, a segment of a
sequence of segments, and the parts of a concatenation. -/

namespace Sys2Proof

open Sys2Proof.Machine

theorem Machine.segmentStart_add (a : Nat) (len : Nat → Nat) (i : Nat) :
    segmentStart a len i = a + segmentStart 0 len i := by
  induction i with
  | zero => rfl
  | succ i ih => simp only [segmentStart, ih]; omega

/-- The sum of the first `n` segments' lengths. -/
theorem length_flatMap_range {α : Type} (f : Nat → List α) (len : Nat → Nat) (h : ∀ i, (f i).length = len i) (n : Nat) :
    ((List.range n).flatMap f).length = segmentStart 0 len n := by
  induction n with
  | zero => rfl
  | succ n ih => simp [List.range_succ, ih, h, segmentStart]

/-- Position `k` of segment `i`, in a sequence of at least `i + 1` segments. -/
theorem getElem?_flatMap_range {α : Type} (f : Nat → List α) (len : Nat → Nat) (h : ∀ i, (f i).length = len i) {n i k : Nat}
    (hi : i < n) (hk : k < len i) : ((List.range n).flatMap f)[segmentStart 0 len i + k]? = (f i)[k]? := by
  induction n with
  | zero => omega
  | succ n ih =>
    rw [List.range_succ, List.flatMap_append]
    have hl := length_flatMap_range f len h n
    by_cases e : i = n
    · subst e
      rw [List.getElem?_append_right (by omega), hl, Nat.add_sub_cancel_left]
      simp
    · have hin : i < n := by omega
      have mono : ∀ m, i < m → segmentStart 0 len i + len i ≤ segmentStart 0 len m := by
        intro m
        induction m with
        | zero => omega
        | succ m ihm =>
          intro hm
          by_cases em : i = m
          · subst em; simp [segmentStart]
          · have := ihm (by omega)
            simp only [segmentStart]; omega
      rw [List.getElem?_append_left (by have := mono n hin; omega)]
      exact ih hin

/-- Cycle `k` of a burst: ON in the first half of each pulse (spec/42_encoder.md R140). -/
theorem Config.getElem?_burst (c : Config) {n h k : Nat} (hk : k < 2 * n * h) :
    (c.burst n h)[k]? = some (if k / h % 2 = 0 then c.txOnLevel else !c.txOnLevel) := by
  have hh : 0 < h := by
    rcases Nat.eq_zero_or_pos h with rfl | hp
    · simp at hk
    · exact hp
  induction n generalizing k with
  | zero => omega
  | succ n ih =>
    have e : c.burst (n + 1) h = (c.on h ++ c.off h) ++ c.burst n h := by simp [Config.burst, List.replicate_succ]
    rw [e]
    by_cases h2 : k < 2 * h
    · rw [List.getElem?_append_left (by simp; omega)]
      by_cases h1 : k < h
      · rw [List.getElem?_append_left (by simpa using h1), Nat.div_eq_of_lt h1]
        simp [Config.on, h1]
      · rw [List.getElem?_append_right (by simp; omega), Config.length_on]
        have : k / h = 1 := by
          rw [Nat.div_eq_iff hh]; omega
        rw [this]
        simp [Config.off, List.getElem?_replicate]
        omega
    · rw [List.getElem?_append_right (by simp; omega)]
      have hl : (c.on h ++ c.off h).length = 2 * h := by simp; omega
      rw [hl, ih (by have : 2 * (n + 1) * h = 2 * n * h + 2 * h := by ring
                     omega)]
      have : k / h = (k - 2 * h) / h + 2 := by
        conv_lhs => rw [show k = (k - 2 * h) + 2 * h by omega]
        exact Nat.add_mul_div_right _ _ hh
      rw [this, Nat.add_mod_right]

theorem length_envBurst {n : Nat} (hn : 1 ≤ n) (h g : Nat) : (envBurst n h g).length = 2 * n * h + g := by
  obtain ⟨m, rfl⟩ : ∃ m, n = m + 1 := ⟨n - 1, by omega⟩
  have : (2 * (m + 1) - 1) * h + h = 2 * (m + 1) * h := by
    rw [show 2 * (m + 1) - 1 = 2 * m + 1 by omega]; ring
  simp [envBurst, actRun, idleRun]
  omega

/-- Sample `k` of a burst's envelope (spec/42_encoder.md R149). -/
theorem getElem?_envBurst {n : Nat} (hn : 1 ≤ n) {h g k : Nat} (hk : k < 2 * n * h + g) :
    (envBurst n h g)[k]? = some (decide (k < (2 * n - 1) * h)) := by
  have hl := length_envBurst hn h g
  simp only [envBurst, actRun, idleRun] at hl ⊢
  by_cases h1 : k < (2 * n - 1) * h
  · rw [List.getElem?_append_left (by simpa using h1)]
    simp [h1]
  · rw [List.getElem?_append_right (by simpa using h1)]
    simp only [List.length_append, List.length_replicate] at hl
    simp [List.getElem?_replicate, h1]
    omega

/-- A burst that stands in a concatenation is a burst at its position. -/
theorem Machine.BurstAt.of_eq {W A B : List Level} {c : Config} {s n h : Nat} (hW : W = A ++ (c.burst n h ++ B))
    (hs : A.length = s) : BurstAt W c.txOnLevel s n h := by
  subst hs hW
  intro k hk
  rw [List.getElem?_append_right (by omega), Nat.add_sub_cancel_left, List.getElem?_append_left (by simpa using hk)]
  exact c.getElem?_burst hk

/-- A gap that stands in a concatenation is a gap at its position. -/
theorem Machine.GapAt.of_eq {W A B : List Level} {c : Config} {s g : Nat} (hW : W = A ++ (c.off g ++ B))
    (hs : A.length = s) : GapAt W c.txOnLevel s g := by
  subst hs hW
  intro k hk
  rw [List.getElem?_append_right (by omega), Nat.add_sub_cancel_left, List.getElem?_append_left (by simpa using hk)]
  simp [Config.off, hk]

/-- `envBurst` is the envelope of a burst (spec/42_encoder.md R149). -/
theorem Machine.EnvelopeAt.of_burstAt {E : List Bool} {W : List Level} {on : Level} {s n h g : Nat} (hn : 1 ≤ n) (hh : 1 ≤ h)
    (hb : BurstAt W on s n h) (he : ∀ k < 2 * n * h + g, E[s + k]? = (envBurst n h g)[k]?) :
    EnvelopeAt E W on s n h g := by
  intro k hk
  refine ⟨_, (he k hk).trans (getElem?_envBurst hn hk), ?_⟩
  have isOn : ∀ i < 2 * n * h, (W[s + i]? = some on ↔ i / h % 2 = 0) := by
    intro i hi
    rw [hb i hi]
    cases on <;> split_ifs <;> simp_all
  obtain ⟨m, rfl⟩ : ∃ m, n = m + 1 := ⟨n - 1, by omega⟩
  have e1 : 2 * (m + 1) - 1 = 2 * m + 1 := by omega
  have e2 : (2 * m + 1) * h + h = 2 * (m + 1) * h := by ring
  have e3 : (2 * m + 1) * h = 2 * m * h + h := by ring
  rw [e1, decide_eq_true_eq]
  constructor
  · intro hk
    refine ⟨0, (2 * m + 1) * h - 1, by omega, by omega, by omega, (isOn _ (by omega)).2 (by simp),
      (isOn _ (by omega)).2 ?_⟩
    have : ((2 * m + 1) * h - 1) / h = 2 * m := by
      rw [Nat.div_eq_iff (by omega)]
      constructor <;> omega
    omega
  · rintro ⟨i, j, h1, h2, h3, -, h4⟩
    rw [isOn j h3] at h4
    by_contra hcon
    have : j / h = 2 * m + 1 := by
      rw [Nat.div_eq_iff (by omega)]
      constructor <;> omega
    omega

/-- Position `k` of segment `i`, where the segments stand between `A` and `B`. -/
theorem getElem?_between {α : Type} (A B : List α) (f : Nat → List α) (len : Nat → Nat) (h : ∀ i, (f i).length = len i)
    {a n i k : Nat} (ha : A.length = a) (hi : i < n) (hk : k < len i) :
    (A ++ ((List.range n).flatMap f ++ B))[segmentStart a len i + k]? = (f i)[k]? := by
  subst ha
  have e := getElem?_flatMap_range f len h hi hk
  rw [segmentStart_add, Nat.add_assoc, List.getElem?_append_right (by omega), Nat.add_sub_cancel_left,
    List.getElem?_append_left, e]
  by_contra hcon
  rw [List.getElem?_eq_none (by omega), eq_comm, List.getElem?_eq_none_iff, h] at e
  omega

/-- Segment `i` of a sequence of bursts with gaps, where the segments stand between `A` and `B`. -/
theorem burstAt_gapAt_between {c : Config} {W A B : List Level} {n a : Nat} {f : Nat → List Level} {N H G : Nat → Nat}
    (hW : W = A ++ ((List.range n).flatMap f ++ B)) (ha : A.length = a)
    (hf : ∀ i, f i = c.burst (N i) (H i) ++ c.off (G i)) :
    ∀ i < n, BurstAt W c.txOnLevel (segmentStart a (fun i => 2 * N i * H i + G i) i) (N i) (H i) ∧
      GapAt W c.txOnLevel (segmentStart a (fun i => 2 * N i * H i + G i) i + 2 * N i * H i) (G i) := by
  intro i hi
  have hl : ∀ i, (f i).length = 2 * N i * H i + G i := by simp [hf]
  subst hW
  constructor
  · intro k hk
    rw [getElem?_between A B f _ hl ha hi (by omega), hf, List.getElem?_append_left (by simpa using hk)]
    exact c.getElem?_burst hk
  · intro k hk
    rw [Nat.add_assoc, getElem?_between A B f _ hl ha hi (by omega), hf, List.getElem?_append_right (by simp),
      c.length_burst, Nat.add_sub_cancel_left]
    simp [Config.off, hk]

end Sys2Proof
end

