-- ==== Sys2Proof/Laws/Stream.lean ====
section
/-! SUPPORT. The decoder over a sample stream, with the plumbing (synchroniser, inputs, edge index) factored out: `feed` is
the decoder alone, `Passes` says it stays in flight while it reads the samples, and `Passes.run` that the machine
does the same. One lemma per run of samples (spec/41_timing_windows.md R124). -/

namespace Sys2Proof.Machine

/-- `u` with another synchroniser, other inputs and another edge index, which no decoder rule reads. -/
def State.withPlumbing (u : State) (sy : List Level) (inp : List InPorts) (nw : Nat) : State :=
  { u with sync := sy, inputs := inp, now := nw }

/-- The decoder alone, over a list of samples. -/
def State.feed (s : State) (acts : List Bool) : State := acts.foldl (fun u a => u.clearDone.decodeStep a) s

@[simp] theorem State.feed_nil (s : State) : s.feed [] = s := rfl

@[simp] theorem State.feed_cons (s : State) (a : Bool) (as : List Bool) :
    s.feed (a :: as) = (s.clearDone.decodeStep a).feed as := rfl

theorem State.feed_append (s : State) (as bs : List Bool) : s.feed (as ++ bs) = (s.feed as).feed bs :=
  List.foldl_append

/-- The decoder reads no plumbing. -/
theorem State.decodeStep_withPlumbing (u : State) (sy : List Level) (inp : List InPorts) (nw : Nat) (a : Bool) :
    (u.withPlumbing sy inp nw).decodeStep a = (u.decodeStep a).withPlumbing sy inp nw := by
  have e : u.withPlumbing sy inp nw = u.decoderOn (u.withPlumbing sy inp nw) := rfl
  cases h : u.st.isDecoder with
  | false => rw [State.decodeStep_of_not_decoder (u.withPlumbing sy inp nw) a h, State.decodeStep_of_not_decoder u a h]
  | true =>
    rcases u.decodeStep_spec a h with ⟨_, _, _, _, _, _, _, hs⟩ | ⟨_, oc, _, _, _, _, _, _, hs⟩
    · rw [e, hs]
      exact congrArg (State.withPlumbing · sy inp nw) (hs u).symm
    · rw [e, hs]
      refine Eq.trans ?_ (congrArg (State.withPlumbing · sy inp nw) (hs u).symm)
      cases oc <;> rfl

/-- While it reads the samples `acts` the decoder of `s` stays in flight, and then it is in `u`. -/
structure State.Passes (s : State) (acts : List Bool) (u : State) : Prop where
  before : ∀ k < acts.length, (s.feed (acts.take k)).st.isDecoder = true
  last   : s.feed acts = u

theorem State.Passes.nil (s : State) : s.Passes [] s := ⟨by simp, rfl⟩

theorem State.Passes.cons {s u : State} {a : Bool} {as : List Bool} (hs : s.st.isDecoder = true)
    (h : (s.clearDone.decodeStep a).Passes as u) : s.Passes (a :: as) u := by
  refine ⟨fun k hk => ?_, h.last⟩
  cases k with
  | zero => exact hs
  | succ k => exact h.before k (by simpa using hk)

theorem State.Passes.of_cons {s u : State} {a : Bool} {as : List Bool} (h : s.Passes (a :: as) u) :
    s.st.isDecoder = true ∧ (s.clearDone.decodeStep a).Passes as u :=
  ⟨h.before 0 (by simp), fun k hk => h.before (k + 1) (by simpa using hk), h.last⟩

theorem State.Passes.append {s u t : State} {as bs : List Bool} (h : s.Passes as u) (h' : u.Passes bs t) :
    s.Passes (as ++ bs) t := by
  induction as generalizing s with
  | nil => obtain rfl : s = u := h.last; exact h'
  | cons a as ih => exact .cons h.of_cons.1 (ih h.of_cons.2)

/-! ### The machine and the decoder alone -/

theorem State.feed_withPlumbing (s : State) (sy : List Level) (inp : List InPorts) (nw : Nat) (acts : List Bool) :
    (s.withPlumbing sy inp nw).feed acts = (s.feed acts).withPlumbing sy inp nw := by
  induction acts generalizing s with
  | nil => rfl
  | cons a as ih =>
    rw [State.feed_cons, State.feed_cons, ← ih, ← State.decodeStep_withPlumbing]
    rfl

theorem State.Passes.withPlumbing {s u : State} {acts : List Bool} (h : s.Passes acts u)
    (sy : List Level) (inp : List InPorts) (nw : Nat) :
    (s.withPlumbing sy inp nw).Passes acts (u.withPlumbing sy inp nw) := by
  refine ⟨fun k hk => ?_, ?_⟩
  · rw [State.feed_withPlumbing]; exact h.before k hk
  · rw [State.feed_withPlumbing, h.last]

/-- A decoder edge of the machine is a decoder edge with new plumbing. -/
theorem State.begun_decodeStep (s : State) (a : Bool) :
    s.begun.decodeStep a =
      (s.clearDone.decodeStep a).withPlumbing s.begun.sync s.begun.inputs s.begun.now := by
  rw [← State.decodeStep_withPlumbing]
  rfl

/-- The machine over a sample stream is the decoder alone, edge by edge (spec/43_decoder.md R161). -/
theorem State.Passes.run {s u : State} {acts more : List Bool} (h : s.Passes acts u)
    (hl : s.sync.length = s.cfg.syncStages) (hs : s.Sees (acts ++ more)) :
    ∃ sy inp nw, core.run acts.length s = .next (u.withPlumbing sy inp nw) ∧ sy.length = u.cfg.syncStages ∧
      (u.withPlumbing sy inp nw).Sees more ∧
      ∀ k < acts.length, ∃ v, core.run k s = .next v ∧ v.st.isDecoder = true := by
  induction acts generalizing s u with
  | nil =>
    obtain rfl : s = u := h.last
    exact ⟨s.sync, s.inputs, s.now, rfl, hl, hs, by simp⟩
  | cons a as ih =>
    obtain ⟨hd, hp⟩ := h.of_cons
    obtain ⟨hr, ha, hb⟩ := State.sees_cons (as := as ++ more) hl hs
    have hstep := step_of_decode hr hd
    rw [ha] at hstep
    set v := s.begun.decodeStep a with hv
    have hpv : v.Passes as (u.withPlumbing s.begun.sync s.begun.inputs s.begun.now) := by
      rw [hv, State.begun_decodeStep]; exact hp.withPlumbing ..
    have hlv : v.sync.length = v.cfg.syncStages := by
      rw [hv, State.decodeStep_sync, State.decodeStep_cfg]; exact State.begun_syncLen hl
    have hsv : v.Sees (as ++ more) := by
      have e1 : v.inputs = s.begun.inputs := State.decodeStep_inputs ..
      have e2 : v.pendingActs = s.begun.pendingActs := by
        rw [State.pendingActs, State.pendingActs, e1, hv, State.decodeStep_sync, State.decodeStep_cfg]
      simpa only [State.Sees, State.NoReset, e1, e2] using hb
    obtain ⟨sy, inp, nw, h1, h2, h3, h4⟩ := ih hpv hlv hsv
    refine ⟨sy, inp, nw, ?_, h2, h3, fun k hk => ?_⟩
    · rw [List.length_cons, run_succ hstep]; exact h1
    · cases k with
      | zero => exact ⟨s, rfl, hd⟩
      | succ k =>
        rw [run_succ hstep]
        exact h4 k (by simpa using hk)

/-- A decode whose samples lead the decoder to a completed state ends at the edge that reads the last of them. -/
theorem State.Passes.decodeEnds {s u : State} {acts : List Bool} (h : s.Passes acts u)
    (hl : s.sync.length = s.cfg.syncStages) (hs : s.Sees acts)
    (hi : u.st = .idle) (hd : u.done = true) (ho : u.doneOp = .decode) :
    ∃ sy inp nw, s.DecodeEnds acts.length (u.withPlumbing sy inp nw) := by
  obtain ⟨sy, inp, nw, h1, _, _, h4⟩ := h.run (more := []) hl (by simpa using hs)
  exact ⟨sy, inp, nw, h4, h1, hi, hd, ho⟩

/-- The other way: a decode of the machine that ends over the samples `acts` is a decode of the decoder alone. -/
theorem State.DecodeEnds.passes {s t : State} {acts : List Bool} (h : s.DecodeEnds acts.length t)
    (hl : s.sync.length = s.cfg.syncStages) (hs : s.Sees acts) :
    ∃ u sy inp nw, s.Passes acts u ∧ t = u.withPlumbing sy inp nw := by
  have hp : ∀ k ≤ acts.length, s.Passes (acts.take k) (s.feed (acts.take k)) := by
    intro k
    induction k with
    | zero => intro _; exact .nil s
    | succ k ih =>
      intro hk
      refine ⟨fun j hj => ?_, rfl⟩
      rw [List.length_take] at hj
      rw [List.take_take, Nat.min_eq_left (by omega)]
      rcases Nat.lt_or_ge j k with hjk | hjk
      · have := (ih (by omega)).before j (by rw [List.length_take]; omega)
        rwa [List.take_take, Nat.min_eq_left (by omega)] at this
      · obtain rfl : j = k := by omega
        have hsp : s.Sees (acts.take j ++ acts.drop j) := by rwa [List.take_append_drop]
        obtain ⟨sy, inp, nw, hr, -⟩ := (ih (by omega)).run hl hsp
        rw [List.length_take, Nat.min_eq_left (by omega)] at hr
        obtain ⟨v, hv, hd⟩ := h.before j (by omega)
        rw [hv] at hr
        cases hr
        exact hd
  have hq := hp acts.length le_rfl
  rw [List.take_length] at hq
  obtain ⟨sy, inp, nw, hr, -⟩ := hq.run (more := []) hl (by simpa using hs)
  exact ⟨_, sy, inp, nw, hq, by have := h.last.symm.trans hr; cases this; rfl⟩

/-! ### One run of samples (spec/41_timing_windows.md R124) -/

/-- Clearing `done` where it is clear changes nothing. -/
theorem State.clearDone_of_not_done {s : State} (h : s.done = false) : s.clearDone = s := by
  unfold State.clearDone
  rw [← h]

/-- `k` more samples at the counted level, staying below the limit. -/
theorem State.passes_replicate {s : State} {L : Bool} (hL : s.st.counts = some L) (hd : s.done = false)
    {k : Nat} (h : s.cnt + k < s.limit) (hw : s.limit ≤ 2 ^ s.cfg.cntW) :
    s.Passes (List.replicate k L) { s with cnt := s.cnt + k } := by
  induction k generalizing s with
  | zero => exact .nil s
  | succ k ih =>
    refine .cons (Seq.isDecoder_of_counts hL) ?_
    have hstep : s.clearDone.decodeStep L = { s with cnt := s.cnt + 1 } := by
      rw [State.clearDone_of_not_done hd, State.decodeStep_cont hL (by omega), State.truncCnt, Nat.mod_eq_of_lt (by omega)]
    rw [hstep]
    have := @ih { s with cnt := s.cnt + 1 } hL hd (by
      show s.cnt + 1 + k < s.limit
      omega) hw
    rwa [show s.cnt + 1 + k = s.cnt + (k + 1) by omega] at this

/-- A whole run of `n` samples at the counted level, whose first sample is already counted, then the sample that ends it.
`rest` is what follows the run. -/
theorem State.passes_run {s t : State} {L : Bool} (hL : s.st.counts = some L) (hd : s.done = false)
    (hc : s.cnt = 1) {n : Nat} (h1 : 1 ≤ n) (hn : n < s.limit) (hw : s.limit ≤ 2 ^ s.cfg.cntW)
    {rest : List Bool} (hr : rest.head? = some (!L))
    (h : (({ s with cnt := n } : State).decodeStep (!L)).Passes rest.tail t) :
    s.Passes (List.replicate n L ++ rest).tail t := by
  obtain ⟨k, rfl⟩ : ∃ k, n = k + 1 := ⟨n - 1, by omega⟩
  obtain ⟨r, hr'⟩ : ∃ r, rest = (!L) :: r := by
    cases rest with
    | nil => simp at hr
    | cons x r => simp only [List.head?_cons, Option.some.injEq] at hr; exact ⟨r, by rw [hr]⟩
  subst hr'
  have e : (List.replicate (k + 1) L ++ (!L) :: r).tail = List.replicate k L ++ (!L) :: r := by
    simp [List.replicate_succ]
  rw [e]
  refine (State.passes_replicate (k := k) hL hd (by omega) hw).append ?_
  have e2 : ({ s with cnt := s.cnt + k } : State) = { s with cnt := k + 1 } := by
    rw [hc, Nat.add_comm]
  rw [e2]
  refine .cons (Seq.isDecoder_of_counts hL) ?_
  rw [State.clearDone_of_not_done (s := { s with cnt := k + 1 }) hd]
  simpa using h

/-- The other way: a decoder that leaves its decode while it reads `acts` in a measuring state ends the run at a sample of
the other level, or reaches the limit. -/
theorem State.Passes.run_cases {s u : State} {L : Bool} {acts : List Bool} (h : s.Passes acts u)
    (hu : u.st.isDecoder = false) (ho : s.cfg.Ok) (hL : s.st.counts = some L) (hd : s.done = false)
    (hc : s.cnt < s.limit) :
    (∃ k rest, acts = List.replicate k L ++ (!L) :: rest ∧ s.cnt + k < s.limit ∧
      (({ s with cnt := s.cnt + k } : State).decodeStep (!L)).Passes rest u) ∨
    (∃ k rest, acts = List.replicate (k + 1) L ++ rest ∧ s.cnt + k + 1 = s.limit ∧
      (({ s with cnt := s.cnt + k } : State).decodeStep L).Passes rest u) := by
  induction acts generalizing s with
  | nil =>
    obtain rfl : s = u := h.last
    rw [Seq.isDecoder_of_counts hL] at hu
    cases hu
  | cons a as ih =>
    have hp := h.of_cons.2
    rw [State.clearDone_of_not_done hd] at hp
    rcases Bool.eq_or_eq_not a L with rfl | rfl
    · by_cases hlt : s.cnt + 1 < s.limit
      · rw [State.decodeStep_count ho hL hlt] at hp
        have e : ∀ k, ({ s with cnt := s.cnt + 1 + k } : State) = { s with cnt := s.cnt + (k + 1) } := fun k => by
          rw [show s.cnt + 1 + k = s.cnt + (k + 1) by omega]
        rcases ih hp ho hL hd hlt with ⟨k, rest, ha, hk, hq⟩ | ⟨k, rest, ha, hk, hq⟩
        · refine .inl ⟨k + 1, rest, by rw [ha]; rfl, ?_, e k ▸ hq⟩
          have : s.cnt + 1 + k < s.limit := hk
          omega
        · refine .inr ⟨k + 1, rest, by rw [ha]; rfl, ?_, e k ▸ hq⟩
          have : s.cnt + 1 + k + 1 = s.limit := hk
          omega
      · exact .inr ⟨0, as, rfl, by omega, hp⟩
    · exact .inl ⟨0, as, rfl, hc, hp⟩

end Sys2Proof.Machine
end

