-- ==== Sys2Proof/Tests/Slice0.lean ====
section
/-! SUPPORT. The model's own tests. Expected values are the spec's own vectors (spec/95_test_vectors.md) or are worked out by
hand from the rule named. The last part shows, for every obligation with hypotheses, that something meets them. -/

namespace Sys2Proof.Tests

open Sys2Proof.Machine

/-! ### Helpers -/

/-- The input ports at an edge without reset at which the line is active or idle, where active is level 0. -/
def ports (valid : Bool) (w : CmdWord) (active : Bool) : InPorts :=
  { rst := false, cmdValid := valid, cmdWord := w, lineIn := !active }

/-- The next state, where there is one. -/
def after : Host.Outcome State Fault Refusal → Option State
  | .next s => some s
  | .fault _ => none
  | .refused _ => none

/-- A state of the example configuration EX: the reset state in `q` with `cnt = n`, and the line as given. -/
def inEx (q : Seq) (n : Nat) (acts : List Bool) : State :=
  { State.resetOf Config.ex [] with st := q, cnt := n, inputs := acts.map (ports false 0#40) }

/-- The reset state of EX with a word on the command port. -/
def offered (w : CmdWord) : State := { State.resetOf Config.ex [] with inputs := [ports true w false] }

/-- A configuration with short runs, which passes every check and decodes its own frames. -/
def tiny : Config :=
  { Config.ex with
    cntW := 3, wLfHdrMark := ⟨3, 3⟩, wLfHdrSpace := ⟨3, 3⟩, wLfRptSpace := ⟨2, 2⟩, wLfSpace0 := ⟨1, 1⟩,
    wLfSpace1 := ⟨2, 2⟩, wVfHdrMark := ⟨1, 1⟩, wVfHdrSpace := ⟨1, 1⟩, wVfMark0 := ⟨1, 1⟩, wVfMark1 := ⟨3, 3⟩,
    symLimit := 5, vfBlkTo1 := 3, vfBlkTo2 := 2, lfHdrPulses := 2, lfHdrGap := 2, lfBitPulses := 1, lfGap0 := 0,
    lfGap1 := 1, lfTrailPulses := 1, vfHdrPulses := 1, vfHdrGap := 0, vfPulses0 := 1, vfPulses1 := 2, vfGap := 0 }

theorem test_tiny_ok : tiny.Ok := by decide

/-- The reset state of `tiny` with a line. -/
def line (acts : List Bool) : State := { State.resetOf tiny [] with inputs := acts.map (ports false 0#40) }

/-- A decode of `tiny` one sample into its header mark, with a line. -/
def inHeader (acts : List Bool) : State := { line acts with st := .dHdrMark, cnt := 1 }

/-- What a written-down line shows. -/
theorem sees_line {s : State} {acts : List Bool} (hc : s.cfg = tiny) (hs : s.sync = [])
    (hi : s.inputs = acts.map (ports false 0#40)) : s.Sees acts := by
  refine ⟨⟨by simp [hi], fun p hp => ?_⟩, ?_⟩
  · rw [hi] at hp
    obtain ⟨a, -, rfl⟩ := List.mem_map.mp (List.mem_of_mem_take hp)
    rfl
  · have e : ((fun x => x == tiny.activeLevel) ∘ (fun x => x.lineIn) ∘ ports false 0#40) = id := by
      funext a
      cases a <;> rfl
    simp [State.pendingActs, hc, hs, hi, List.map_map, e]

theorem inHeader_inv (acts : List Bool) : (inHeader acts).Inv where
  cfgOk := test_tiny_ok
  syncLen := rfl
  line := ⟨by simp [inHeader, line, State.resetOf], fun _ => rfl⟩
  frame := ⟨by simp [inHeader, line, State.resetOf], by simp [inHeader, line, State.resetOf],
    by simp [inHeader, line, State.resetOf], fun _ => ⟨rfl, rfl, rfl, rfl⟩⟩
  counters := ⟨show 1 + 1 ≤ tiny.maxLimit by decide, fun _ => show 1 ≤ 1 ∧ 1 < 5 by decide,
    show (0 : Word) ≤ 0 by decide, fun _ => rfl, fun h => by cases h⟩
  encoder := fun h => by cases h
  decoder := ⟨fun _ => rfl, show (0 : BitVec 5) = 0 from rfl, fun _ _ i _ => by simp [inHeader, line, State.resetOf],
    by simp [inHeader], by simp [inHeader]⟩
  doneIdle := fun h => by cases h

/-! ### Decoding words written out from spec/30_encoding.md R70, R71, R72 (spec/95_test_vectors.md section 2.1) -/

theorem test_decode_nop : decode 0x0000000000#40 = .nop ∧ decode 0xFFFFFFFFF8#40 = .nop ∧ decode 4#40 = .nop := by decide
theorem test_decode_txLf :
    decode 0x1234567801#40 = .txLf 0x12345678#32 ∧ decode 0xFFFFFFFFF9#40 = .txLf 0xFFFFFFFF#32 := by decide
theorem test_decode_txVf :
    decode 0x000000A505#40 = .txVf 0xA5#32 ∧ decode 0x0000100005#40 = .txVf 0x1000#32 := by decide
theorem test_decode_dec : decode 0x0000000AFA#40 = .dec 10#32 ∧ decode 0xFFFFFFFF02#40 = .dec 0xFFFFFFFF#32 := by decide
theorem test_decode_decInf : decode 0x0000000006#40 = .decInf 0#32 ∧ decode 0x1234567806#40 = .decInf 0x12345678#32 := by
  decide
theorem test_decode_rsvd : decode 0x0000000003#40 = .rsvd ∧ decode 0xFFFFFFFFFF#40 = .rsvd := by decide

/-- R81's own examples of assembled words. -/
theorem test_encode : encode (.txLf 0x12345678#32) = 0x1234567801#40 ∧ encode (.dec 1000#32) = 0x000003E802#40 ∧
    encode (.decInf 0#32) = 0x0000000006#40 ∧ encode (.txVf 0xA5#32) = 0x000000A505#40 ∧ encode .nop = 0#40 ∧
    encode .rsvd = 3#40 := by decide

theorem test_decodeTableWord : decodeTableWord 40 0x000003E802 = some (.dec 1000#32) ∧
    decodeTableWord 8 0x05 = some (.txVf 0#32) ∧ decodeTableWord 48 0x10000000000 = none := by decide

/-! ### WellFormed refuses what the spec refuses -/

theorem test_issuable : Instr.issuable (.decInf 1#32) = false ∧ Instr.issuable .rsvd = false ∧
    Instr.issuable (.decInf 0#32) = true := by decide

/-- The rows of spec/95_test_vectors.md section 2.3, which change EX in one parameter; items 6 and 10 by hand. -/
theorem test_config_checks :
    Config.ex.configError = none ∧
    { Config.ex with wVfMark0 := ⟨0, 7⟩ }.configError = some 1 ∧
    { Config.ex with symLimit := 100 }.configError = some 2 ∧
    { Config.ex with symLimit := 101 }.configError = none ∧
    { Config.ex with wVfHdrMark := ⟨20, 80⟩ }.configError = some 3 ∧
    { Config.ex with wLfRptSpace := ⟨20, 40⟩ }.configError = some 4 ∧
    { Config.ex with wLfSpace1 := ⟨7, 18⟩ }.configError = some 5 ∧
    { Config.ex with wVfMark1 := ⟨7, 14⟩ }.configError = some 6 ∧
    { Config.ex with vfBlkTo1 := 1 }.configError = some 7 ∧
    { Config.ex with cntW := 6 }.configError = some 8 ∧
    { Config.ex with cntW := 7 }.configError = none ∧
    { Config.ex with lfBitPulses := 0 }.configError = some 9 ∧
    { Config.ex with lfHdrGap := 4294967296 }.configError = some 10 := by decide

/-! ### One edge at a time -/

/-- Vector N1. -/
theorem test_nop : (after (step (offered 0x0000000000#40))).map (fun t => (t.done, t.doneOp.code, t.st, t.resOutcome)) =
    some (true, 0b00#2, .idle, .none) := by decide

/-- Vector N2: the results of the decode before stay. -/
theorem test_rsvd : (after (step { offered 0x0000000003#40 with resOutcome := .success, resBitCount := 32 })).map
    (fun t => (t.done, t.doneOp.code, t.resOutcome, t.resBitCount)) = some (true, 0b11#2, .success, 32#6) := by decide

/-- Vector T3, cycle 0. -/
theorem test_txLf : (after (step (offered 0x1234567801#40))).map (fun t => (t.lineOe, t.lineOut, t.epay, t.st)) =
    some (true, true, 0x12345678#32, .eTx) := by decide

/-- Vector T6: bit 0, a 1, is sent as 12 cycles of burst from cycle 29. -/
theorem test_txVf : ((Config.ex.waveVf 0xA5#32).drop 29).take 18 =
    [true, false, true, false, true, false, true, false, true, false, true, false, false, false, false, false, false,
      true] := by decide

/-- Vectors T1 to T8. -/
theorem test_wave_lengths : Config.ex.waveLen .longFrame 0x12345678#32 = 603 ∧
    Config.ex.waveLen .longFrame 0xFFFFFFFF#32 = 812 ∧ Config.ex.waveLen .variableFrame 0xA5#32 = 185 ∧
    Config.ex.waveLen .variableFrame 0x1000#32 = 161 := by decide

/-- The last edge of the shortest waveform of `tiny`, 26 cycles long (spec/42_encoder.md R145). -/
theorem test_tx_ends : (after (step { line [false] with
    st := .eTx, lineOe := true, eproto := .variableFrame, ek := 25 })).map
      (fun t => (t.lineOe, t.lineOut, t.done, t.doneOp.code, t.st)) =
    some (false, false, true, 0b01#2, .idle) := by decide

/-- Accepting `DEC 10` clears the results and latches the budget (spec/43_decoder.md R160). -/
theorem test_dec : (after (step { offered 0x0000000A02#40 with resOutcome := .success, resPayload := 7 })).map
    (fun t => (t.st, t.tmo, t.inf, t.resOutcome, t.resPayload)) = some (.dWaitIdle, 10#32, false, .none, 0#32) := by
  decide

/-- Vector W1: `DEC 0` is over at its first sample. -/
theorem test_dec_zero : (after (step (inEx .dWaitIdle 0 [false]))).map (fun t => (t.st, t.done, t.resOutcome)) =
    some (.idle, true, .timeout) := by decide

theorem test_decInf : (after (step (offered 0x1234567806#40))).map (fun t => (t.st, t.tmo, t.inf)) =
    some (.dWaitIdle, 0x12345678#32, true) := by decide

/-- Vector W13: without a budget the wait goes on. -/
theorem test_decInf_waits : (after (step { inEx .dWaitMark 0 [false] with inf := true })).map
    (fun t => (t.st, t.wcnt)) = some (.dWaitMark, 0#32) := by decide

/-- Vectors H9 and H10: 119 samples are a length, the 120th is the limit. -/
theorem test_limit : (after (step (inEx .dHdrMark 119 [false]))).map (·.resOutcome) = some .protocolError ∧
    (after (step (inEx .dHdrMark 119 [true]))).map (·.resOutcome) = some .timeout ∧
    (after (step (inEx .dHdrMark 118 [true]))).map (·.cnt) = some 119 := by decide

/-- Vectors H1 to H8. -/
theorem test_header_mark : [19, 20, 28, 29, 79, 80, 100, 101].map
    (fun n => (after (step (inEx .dHdrMark n [false]))).map (·.st)) =
      [some .idle, some .dVfHdrSpace, some .dVfHdrSpace, some .idle, some .idle, some .dLfHdrSpace, some .dLfHdrSpace,
        some .idle] := by decide

/-- Vectors LS1 to LS8. -/
theorem test_lf_header_space : [19, 20, 25, 26, 39, 40, 50, 51].map
    (fun n => (after (step (inEx .dLfHdrSpace n [true]))).map (·.st)) =
      [some .idle, some .dLfRptTrail, some .dLfRptTrail, some .idle, some .idle, some .dLfMark, some .dLfMark,
        some .idle] := by decide

/-- Vectors LB1 to LB8, at bit 1 over an accumulator of ones: a 0 clears its bit. -/
theorem test_lf_bit_space : [3, 4, 7, 8, 13, 14, 18, 19].map
    (fun n => (after (step { inEx .dLfSpace n [true] with bidx := 1, acc := 3 })).map (fun t => (t.st, t.acc))) =
      [some (.idle, 3#32), some (.dLfMark, 1#32), some (.dLfMark, 1#32), some (.idle, 3#32), some (.idle, 3#32),
        some (.dLfMark, 3#32), some (.dLfMark, 3#32), some (.idle, 3#32)] := by decide

/-- The frame ends after bit 31's trailing mark (spec/43_decoder.md R174, R175). -/
theorem test_lf_end : (after (step { inEx .dLfSpace 5 [true] with bidx := 31 })).map (·.st) = some .dLfTrail ∧
    (after (step { inEx .dLfTrail 5 [false] with acc := 0xA5A5F00F })).map
      (fun t => (t.resOutcome, t.resProtocol, t.resBitCount, t.resPayload, t.resIsRepeat)) =
        some (.success, .longFrame, 32#6, 0xA5A5F00F#32, false) := by decide

/-- Vectors VM1 to VM8, at bit 1. -/
theorem test_vf_mark : [3, 4, 7, 8, 9, 10, 14, 15].map
    (fun n => (after (step { inEx .dVfMark n [false] with bidx := 1 })).map (fun t => (t.st, t.acc, t.bidx))) =
      [some (.idle, 0#32, 1#5), some (.dVfSpace, 0#32, 2#5), some (.dVfSpace, 0#32, 2#5), some (.idle, 0#32, 1#5),
        some (.idle, 0#32, 1#5), some (.dVfSpace, 2#32, 2#5), some (.dVfSpace, 2#32, 2#5), some (.idle, 0#32, 1#5)] := by
  decide

/-- Block ends at bits 12 and 15 only (vectors VF1, VF4, VL3), and bit 19 ends the frame (VF6). -/
theorem test_vf_block_ends : [5, 12, 15].map
    (fun b => (after (step { inEx .dVfSpace 11 [false] with bidx := b })).map (fun t => (t.resOutcome, t.resBitCount))) =
      [some (.none, 0#6), some (.success, 12#6), some (.success, 15#6)] ∧
    (after (step { inEx .dVfMark 11 [false] with bidx := 19 })).map (fun t => (t.resOutcome, t.resBitCount, t.resPayload)) =
      some (.success, 20#6, 0x80000#32) := by decide

/-- Vector RS1 and RS4: a reset edge takes no command. -/
theorem test_reset : (after (step { offered 0x1234567801#40 with
    inputs := [{ ports true 0x1234567801#40 true with rst := true }], st := .eTx, lineOe := true, lineOut := true,
    resOutcome := .success, resBitCount := 32, done := true, doneOp := .decode })).map
      (fun t => [t.st == .idle, !t.lineOe, !t.lineOut, !t.done, t.doneOp == .nop, t.resOutcome == .none,
        t.resBitCount == 0, !t.cmdReady true]) = some (List.replicate 8 true) := by decide

/-- Two stages: the edge reads the older one, and the line enters at stage 0 (spec/10_state.md R23, R24). -/
theorem test_sync : (after (step { State.resetOf { Config.ex with syncStages := 2 } [true, false] with
    inputs := [ports false 0 false], st := .dWaitIdle, tmo := 5 })).map (fun t => (t.st, t.sync)) =
    some (.dWaitIdle, [true, true]) := by decide

/-! ### Something meets the hypotheses of each obligation that has some -/

theorem witness_IgnoredBitsChangeNoCommand : (0b11#2 : BitVec 2) = 0b00#2 ∨ (0b11#2 : BitVec 2) = 0b11#2 := by decide

theorem witness_InfiniteDecodeNeverReadsItsTimeout :
    ∃ s t : State, s.st = .dWaitMark ∧ s.inf = true ∧ step s = .next t :=
  ⟨{ line [false] with st := .dWaitMark, inf := true, tmo := 7 }, _, rfl, rfl, rfl⟩

theorem witness_StepRunsTheAcceptedCommand : ∃ s : State,
    s.inputs = [ports true 0x0000000A02#40 false] ∧ (ports true 0x0000000A02#40 false).rst = false ∧ s.st = .idle ∧
      (ports true 0x0000000A02#40 false).cmdValid = true ∧ decode (ports true 0x0000000A02#40 false).cmdWord = .dec 10#32 :=
  ⟨offered 0x0000000A02#40, rfl, rfl, rfl, rfl, by decide⟩

theorem witness_IdleEdgeWithoutCommandDoesNothing :
    (line [true]).nextPorts.rst = false ∧ (line [true]).st = .idle ∧ (line [true]).nextPorts.cmdValid = false := by decide

/-- One witness per clause: a reset edge, a busy block, no command. -/
theorem witness_UnacceptedCommandIsNotRead :
    ({ ports true 0#40 false with rst := true }.rst = true ∨ (line []).st ≠ .idle) ∧
    ((ports true 0#40 false).rst = true ∨ (inHeader []).st ≠ .idle) ∧ (ports false 0#40 false).cmdValid = false := by
  decide

/-- A reset edge in the middle of a decode. -/
def resetting : State := { inHeader [] with inputs := [{ ports true 0#40 true with rst := true }] }

theorem witness_ResetEdgeSetsEveryRegister : resetting.nextPorts.rst = true := by decide

theorem witness_ResetStatesMeetTheInvariant : tiny.Ok ∧ ([] : List Level).length = tiny.syncStages ∧
    { tiny with syncStages := 2 }.Ok ∧ [true, false].length = { tiny with syncStages := 2 }.syncStages := by decide

theorem witness_RunsKeepTheConfiguration : ∃ t, core.run 2 (inHeader [true, true]) = .next t := ⟨_, rfl⟩

theorem witness_StepKeepsLineRegisters : ∃ s t : State, s.LineInv ∧ step s = .next t ∧ s.st ≠ .idle :=
  ⟨inHeader [true], _, (inHeader_inv _).line, rfl, by decide⟩

theorem witness_StepKeepsTheInvariant : ∃ s t : State, s.Inv ∧ step s = .next t ∧ s.st = .dHdrMark :=
  ⟨inHeader [false], _, inHeader_inv _, rfl, rfl⟩

/-- One witness per clause: an idle edge, a decode that goes on, a DECODE accepted. -/
theorem witness_OnlyDecodesWriteResults :
    (∃ s t, step s = .next t ∧ s.nextPorts.rst = false ∧ s.st.isDecoder = false ∧
      (s.accepts s.nextPorts = true → (decode s.nextPorts.cmdWord).op ≠ .decode)) ∧
    (∃ s t, step s = .next t ∧ s.nextPorts.rst = false ∧ s.st.isDecoder = true ∧ t.st.isDecoder = true) ∧
    (∃ s t, step s = .next t ∧ s.nextPorts.rst = false ∧ s.accepts s.nextPorts = true ∧
      (decode s.nextPorts.cmdWord).op = .decode) :=
  ⟨⟨offered 0x0000000001#40, _, rfl, rfl, rfl, by decide⟩, ⟨inHeader [true], _, rfl, rfl, rfl, rfl⟩,
    ⟨offered 0x0000000002#40, _, rfl, rfl, by decide, by decide⟩⟩

/-- One witness per clause: a reset edge; a NOP, the last edge of a TRANSMIT and of a decode; an edge that completes nothing. -/
theorem witness_DoneMarksCompletions :
    (∃ t, step resetting = .next t ∧ resetting.nextPorts.rst = true) ∧
    (∃ s t, step s = .next t ∧ s.nextPorts.rst = false ∧ t.done = true ∧ s.accepts s.nextPorts = true) ∧
    (∃ s t, step s = .next t ∧ s.nextPorts.rst = false ∧ t.done = true ∧ s.st = .eTx) ∧
    (∃ s t, step s = .next t ∧ s.nextPorts.rst = false ∧ t.done = true ∧ s.st = .dWaitIdle) ∧
    (∃ s t, step s = .next t ∧ s.nextPorts.rst = false ∧ t.done = false) :=
  ⟨⟨_, rfl, rfl⟩, ⟨offered 0#40, _, rfl, rfl, rfl, rfl⟩,
    ⟨{ line [false] with st := .eTx, eproto := .variableFrame, ek := 25 }, _, rfl, rfl, by decide, rfl⟩,
    ⟨{ line [false] with st := .dWaitIdle }, _, rfl, rfl, rfl, rfl⟩, ⟨inHeader [true], _, rfl, rfl, rfl⟩⟩

theorem witness_NopOnlyCompletes : opField 0xFFFFFFFFFC#40 = 0b00#2 ∧ (line []).st = .idle := by decide

theorem witness_RsvdOnlyCompletes : opField 0x0000000003#40 = 0b11#2 ∧ (line []).st = .idle := by decide

theorem witness_DecodesStartTheWait :
    (Instr.dec 10#32 = .dec 10#32 ∧ false = false) ∧ (Instr.decInf 0#32 = .decInf 0#32 ∧ true = true) := by decide

/-- One witness per clause: cycle 25, the last of the shortest waveform of `tiny`, and cycle 24 before it. -/
theorem witness_EncodeStepSendsTheWaveform :
    ({ line [false] with st := .eTx, ek := 25 } : State).nextPorts.rst = false ∧
    (25#32).toNat + 1 = (tiny.wave .variableFrame 0#32).length ∧
    (24#32).toNat + 1 < (tiny.wave .variableFrame 0#32).length := by decide

theorem witness_WaveformLengths :
    13 = ((List.range 32).filter fun i => (0x12345678#32).getLsbD i).length ∧
    4 = ((List.range 12).filter fun i => (0xA5#32).getLsbD i).length ∧ Config.ex.Ok := by decide

/-- Bit 2 of `0x4` starts after the header and two LongFrame bits of 2 cycles, and its gap is the long one. -/
theorem witness_LongWaveformSendsItsBitsInOrder : ∃ gap start : Nat → Nat,
    (∀ i, gap i = if (0x4#32).getLsbD i then tiny.lfGap1 else tiny.lfGap0) ∧
    start = segmentStart (2 * tiny.lfHdrPulses * tiny.lfH + tiny.lfHdrGap)
      (fun i => 2 * tiny.lfBitPulses * tiny.lfH + gap i) ∧ start 2 = 10 ∧ gap 2 = 1 :=
  ⟨_, _, fun _ => rfl, rfl, by decide, by decide⟩

/-- Bit 2 of `0x2` starts after the header, a bit of one pulse and a bit of two. -/
theorem witness_VariableWaveformSendsItsBitsInOrder : ∃ pulses start : Nat → Nat,
    (∀ i, pulses i = if (0x2#32).getLsbD i then tiny.vfPulses1 else tiny.vfPulses0) ∧
    start = segmentStart (2 * tiny.vfHdrPulses * tiny.vfH + tiny.vfHdrGap)
      (fun i => 2 * pulses i * tiny.vfH + tiny.vfGap) ∧ start 2 = 8 :=
  ⟨_, _, fun _ => rfl, rfl, by decide⟩

theorem witness_EnvelopesFollowTheWaveforms : tiny.Ok ∧ ∃ gap pulses startL startV : Nat → Nat,
    (∀ i, gap i = if (0x4#32).getLsbD i then tiny.lfGap1 else tiny.lfGap0) ∧
    (∀ i, pulses i = if (0x4#32).getLsbD i then tiny.vfPulses1 else tiny.vfPulses0) ∧
    startL = segmentStart (2 * tiny.lfHdrPulses * tiny.lfH + tiny.lfHdrGap)
      (fun i => 2 * tiny.lfBitPulses * tiny.lfH + gap i) ∧
    startV = segmentStart (2 * tiny.vfHdrPulses * tiny.vfH + tiny.vfHdrGap)
      (fun i => 2 * pulses i * tiny.vfH + tiny.vfGap) :=
  ⟨test_tiny_ok, _, _, _, _, fun _ => rfl, fun _ => rfl, rfl, rfl⟩

theorem witness_TransmitTakesTheWaveformsLength :
    ∃ t, exec (.txVf 0#32) (line (idleRun 26)) = .next t ∧ tiny.Ok ∧
      t.NoReset (tiny.wave .variableFrame 0#32).length := by
  refine ⟨_, rfl, test_tiny_ok, ?_⟩
  have h := (sees_line (s := (line (idleRun 26)).startTransmit .variableFrame 0#32) (acts := idleRun 26) rfl rfl rfl).1
  have e : (tiny.wave .variableFrame 0#32).length = (idleRun 26).length := by decide
  rwa [e]

theorem witness_WaveformsReadTheirPayloadBitsOnly :
    (∀ i < 12, (0x1000#32).getLsbD i = (0#32).getLsbD i) ∧
    { tiny with lfGap1 := 0 }.lfGap0 = { tiny with lfGap1 := 0 }.lfGap1 := by decide

theorem witness_EncoderNeverReadsTheLine : ∃ s t : State,
    s.inputs = [ports false 0#40 true] ∧ s.st = .eTx ∧ step s = .next t :=
  ⟨{ line [true] with st := .eTx }, _, rfl, rfl, rfl⟩

theorem witness_FinishWritesTheOutcome : ResOutcome.timeout ≠ .success := by decide

theorem witness_ClassificationOrderIsInvisible : Config.ex.Ok := by decide

theorem witness_WindowEndsClassify : tiny.Ok := test_tiny_ok

/-- One witness per clause of `MeasuringCountsTheRun`: the last counted sample, the limit, the end, a whole run. -/
theorem witness_MeasuringCountsTheRun :
    tiny.Ok ∧ (inHeader [true]).st.counts = some true ∧ (inHeader [true]).nextPorts.rst = false ∧
    (({ inHeader [true] with cnt := 3 } : State).seen = true ∧ 3 + 1 < ({ inHeader [true] with cnt := 3 } : State).limit) ∧
    (({ inHeader [true] with cnt := 4 } : State).seen = true ∧ ({ inHeader [true] with cnt := 4 } : State).limit ≤ 4 + 1) ∧
    (inHeader [false]).seen = !true ∧
    (1 + 3 < (inHeader (List.replicate 3 true)).limit ∧ (inHeader (List.replicate 3 true)).Sees (List.replicate 3 true)) :=
  ⟨test_tiny_ok, rfl, rfl, ⟨rfl, by decide⟩, ⟨rfl, by decide⟩, rfl, ⟨by decide, sees_line rfl rfl rfl⟩⟩

/-- One witness per clause: the budget just used up, one sample left, none asked for. -/
theorem witness_WaitStatesCheckTheBudgetFirst :
    ∀ q ∈ [Seq.dWaitIdle, .dWaitMark], ∀ a ∈ [true, false],
      (tiny.Ok ∧ ({ line [a] with st := q } : State).nextPorts.rst = false ∧ (q = .dWaitIdle ∨ q = .dWaitMark) ∧
        ({ line [a] with st := q } : State).seen = a) ∧
      (∃ s : State, s = { line [a] with st := q, tmo := 3, wcnt := 3 } ∧ s.inf = false ∧ s.tmo ≤ s.wcnt) ∧
      (∃ s : State, s = { line [a] with st := q, tmo := 3, wcnt := 2 } ∧ (s.inf = true ∨ s.wcnt < s.tmo)) ∧
      (∃ s : State, s = { line [a] with st := q, inf := true } ∧ (s.inf = true ∨ s.wcnt < s.tmo)) := by
  intro q hq a ha
  refine ⟨?_, ⟨_, rfl, rfl, show (3 : Word) ≤ 3 by decide⟩, ⟨_, rfl, .inr (show (2 : Word) < 3 by decide)⟩,
    ⟨_, rfl, .inl rfl⟩⟩
  revert q a
  decide

/-- The clauses shared by the statements of measuring states: below the limit, at it, and the end of a run. -/
def meetsClauses (q : Seq) (level : Bool) (lim : Nat) (ends : List Nat) : Bool :=
  decide (inEx q (lim - 2) [level]).cfg.Ok && (inEx q (lim - 2) [level]).seen == level &&
    decide ((inEx q (lim - 2) [level]).cnt + 1 < lim) && (inEx q (lim - 1) [level]).seen == level &&
    decide (lim ≤ (inEx q (lim - 1) [level]).cnt + 1) &&
    ends.all fun n => (inEx q n [!level]).seen == !level && (inEx q n [!level]).cnt == n &&
      !(inEx q n [!level]).nextPorts.rst

/-- Lengths 80 and 100 are the ends of the LongFrame window, 20 and 28 of the VariableFrame window, 29 and 79 lie in none. -/
theorem witness_HeaderMarkSelectsTheProtocol :
    meetsClauses .dHdrMark true 120 [20, 28, 29, 79, 80, 100] = true ∧
    [80, 100].all Config.ex.wLfHdrMark.holds = true ∧
    ([20, 28].all fun n => !Config.ex.wLfHdrMark.holds n && Config.ex.wVfHdrMark.holds n) = true ∧
    ([29, 79].all fun n => !Config.ex.wLfHdrMark.holds n && !Config.ex.wVfHdrMark.holds n) = true := by decide

theorem witness_LongHeaderSpacePicksDataOrRepeat :
    meetsClauses .dLfHdrSpace false 120 [20, 25, 26, 39, 40, 50] = true ∧
    [40, 50].all Config.ex.wLfHdrSpace.holds = true ∧
    ([20, 25].all fun n => !Config.ex.wLfHdrSpace.holds n && Config.ex.wLfRptSpace.holds n) = true ∧
    ([26, 39].all fun n => !Config.ex.wLfHdrSpace.holds n && !Config.ex.wLfRptSpace.holds n) = true := by decide

theorem witness_UncheckedMarksEndTheirState :
    meetsClauses .dLfRptTrail true 120 [1, 119] = true ∧ meetsClauses .dLfMark true 120 [1, 119] = true ∧
    meetsClauses .dLfTrail true 120 [1, 119] = true := by decide

/-- At bits 0, 30 and 31. -/
theorem witness_LongBitSpaceGivesTheBit :
    meetsClauses .dLfSpace false 120 [4, 7, 8, 13, 14, 18] = true ∧ [4, 7].all Config.ex.wLfSpace0.holds = true ∧
    ([14, 18].all fun n => !Config.ex.wLfSpace0.holds n && Config.ex.wLfSpace1.holds n) = true ∧
    ([8, 13].all fun n => !Config.ex.wLfSpace0.holds n && !Config.ex.wLfSpace1.holds n) = true ∧
    ({ inEx .dLfSpace 4 [true] with bidx := 31 } : State).bidx = 31 ∧
    ({ inEx .dLfSpace 4 [true] with bidx := 30 } : State).bidx ≠ 31 := by decide

theorem witness_VariableHeaderSpaceIsChecked :
    meetsClauses .dVfHdrSpace false 120 [3, 4, 7, 8] = true ∧ [4, 7].all Config.ex.wVfHdrSpace.holds = true ∧
    ([3, 8].all fun n => !Config.ex.wVfHdrSpace.holds n) = true := by decide

/-- At bits 18 and 19. -/
theorem witness_VariableMarkGivesTheBit :
    meetsClauses .dVfMark true 120 [4, 7, 8, 9, 10, 14] = true ∧ [4, 7].all Config.ex.wVfMark0.holds = true ∧
    ([10, 14].all fun n => !Config.ex.wVfMark0.holds n && Config.ex.wVfMark1.holds n) = true ∧
    ([8, 9].all fun n => !Config.ex.wVfMark0.holds n && !Config.ex.wVfMark1.holds n) = true ∧
    ({ inEx .dVfMark 4 [false] with bidx := 19 } : State).bidx = 19 ∧
    ({ inEx .dVfMark 4 [false] with bidx := 18 } : State).bidx ≠ 19 := by decide

/-- At bits 12 and 15 with the limit 12, and at bit 5 with the limit 120. -/
theorem witness_VariableSpaceContinuesOrEndsTheFrame :
    meetsClauses .dVfSpace false 12 [1, 11] = true ∧ meetsClauses .dVfSpace false 120 [1, 119] = true ∧
    Config.ex.vfBlkTo1 = 12 ∧ Config.ex.vfBlkTo2 = 12 ∧ (5 : BitVec 5) ≠ 12 ∧ (5 : BitVec 5) ≠ 15 := by decide

theorem witness_FailuresHaveTheListedCauses : ∃ t, step (inEx .dHdrMark 119 [true]) = .next t ∧
    (inEx .dHdrMark 119 [true]).nextPorts.rst = false ∧ (inEx .dHdrMark 119 [true]).st.isDecoder = true ∧
    t.done = true ∧ t.resOutcome ≠ .success := ⟨_, rfl, rfl, rfl, rfl, by decide⟩

theorem witness_FailuresChangeNothingElse : ∃ t, step (inEx .dHdrMark 29 [false]) = .next t ∧
    (inEx .dHdrMark 29 [false]).nextPorts.rst = false ∧ (inEx .dHdrMark 29 [false]).st.isDecoder = true ∧
    t.done = true ∧ t.resOutcome ≠ .success := ⟨_, rfl, rfl, rfl, rfl, by decide⟩

theorem witness_SampleIsTheDelayedLine : ∃ s : State, s.sync.length = s.cfg.syncStages ∧ s.cfg.syncStages = 2 ∧
    2 < s.inputs.length :=
  ⟨{ State.resetOf { tiny with syncStages := 2 } [true, false] with
      inputs := [ports false 0#40 true, ports false 0#40 false, ports false 0#40 true] }, by decide⟩

/-- A decode of `tiny` just accepted, with the budget `T` and a line. -/
def decoding (T : Word) (acts : List Bool) : State := (line acts).startDecode false T

theorem exec_decoding (T : Word) (acts : List Bool) : exec (.dec T) (line acts) = .next (decoding T acts) := rfl

theorem decoding_sees (T : Word) (acts : List Bool) : (decoding T acts).Sees acts := sees_line rfl rfl rfl

/-- One witness per clause: the header at the last sample of the budget, one sample too late, and a measuring state. -/
theorem witness_OverallTimeoutBoundsOnlyTheWait :
    (tiny.Ok ∧ exec (.dec 6#32) (line (waitRuns 2 3 ++ [true])) = .next (decoding 6#32 (waitRuns 2 3 ++ [true])) ∧
      1 ≤ 3 ∧ 2 + 3 + 1 ≤ (6#32).toNat ∧ (decoding 6#32 (waitRuns 2 3 ++ [true])).Sees (waitRuns 2 3 ++ [true])) ∧
    (2 + 3 = (5#32).toNat ∧ (decoding 5#32 (waitRuns 2 3 ++ [true])).Sees (waitRuns 2 3 ++ [true])) ∧
    (∃ t, (inHeader [true]).st.counts ≠ none ∧ (inHeader [true]).nextPorts.rst = false ∧
      step (inHeader [true]) = .next t) :=
  ⟨⟨test_tiny_ok, rfl, by decide, by decide, decoding_sees ..⟩, ⟨by decide, decoding_sees ..⟩,
    ⟨_, by decide, rfl, rfl⟩⟩

theorem witness_InfiniteWaitOutlastsAnyQuietLine : ∃ t, exec (.decInf 0#32) (line (waitRuns 2 3)) = .next t ∧
    t.Sees (waitRuns 2 3) := ⟨_, rfl, sees_line rfl rfl rfl⟩

theorem witness_RepeatCodeIsDetected :
    tiny.Ok ∧ 1 ≤ 1 ∧ 1 + 1 ≤ (2#32).toNat ∧ tiny.wLfHdrMark.holds 3 = true ∧ tiny.wLfRptSpace.holds 2 = true ∧
    4 < tiny.symLimit ∧
    ∃ s t acts, acts = idleRun 1 ++ actRun 3 ++ idleRun 2 ++ actRun 4 ++ [false] ∧
      exec (.dec 2#32) s = .next t ∧ t.Sees acts :=
  ⟨test_tiny_ok, by decide, by decide, by decide, by decide, by decide, _, _, _, rfl, exec_decoding _ _,
    decoding_sees ..⟩

/-- The samples of a frame of 32 zeros after the header mark's first one, and their runs. -/
def zeroFrame : List Bool :=
  (actRun 3 ++ idleRun 3 ++ lfBitRuns 32 (fun _ => 1) (fun _ => 1) ++ actRun 1 ++ [false]).tail

theorem witness_LongFrameDataIffItsRuns :
    (inHeader zeroFrame).Inv ∧ (inHeader zeroFrame).st = .dHdrMark ∧ (inHeader zeroFrame).cnt = 1 ∧
    (inHeader zeroFrame).Sees zeroFrame ∧
    true :: zeroFrame = actRun 3 ++ idleRun 3 ++ lfBitRuns 32 (fun _ => 1) (fun _ => 1) ++ actRun 1 ++ [false] ∧
    tiny.wLfHdrMark.holds 3 = true ∧ tiny.wLfHdrSpace.holds 3 = true ∧
    (∀ i < 32, 1 ≤ 1 ∧ 1 < tiny.symLimit ∧ (tiny.wLfSpace0.holds 1 = true ∨ tiny.wLfSpace1.holds 1 = true) ∧
      (0#32).getLsbD i = !tiny.wLfSpace0.holds 1) ∧ 1 < tiny.symLimit :=
  ⟨inHeader_inv _, rfl, rfl, sees_line rfl rfl rfl, by decide, by decide, by decide, by decide, by decide⟩

/-- The samples of a repeat code after the header mark's first one, and their runs. -/
theorem witness_RepeatCodeIffItsRuns : ∃ acts,
    (inHeader acts).Inv ∧ (inHeader acts).st = .dHdrMark ∧ (inHeader acts).cnt = 1 ∧ (inHeader acts).Sees acts ∧
    true :: acts = actRun 3 ++ idleRun 2 ++ actRun 1 ++ [false] ∧ tiny.wLfHdrMark.holds 3 = true ∧
    tiny.wLfRptSpace.holds 2 = true ∧ tiny.wLfHdrSpace.holds 2 = false ∧ 1 < tiny.symLimit :=
  ⟨[true, true, false, false, true, false], inHeader_inv _, rfl, rfl, sees_line rfl rfl rfl, by decide, by decide,
    by decide, by decide, by decide⟩

/-- The samples of a VariableFrame of zeros with `n + 1` marks and a tail, after the header mark's first one. -/
def vfFrame (n : Nat) (tail : List Bool) : List Bool :=
  (actRun 1 ++ idleRun 1 ++ vfBitRuns n (fun _ => 1) (fun _ => 1) ++ tail).tail

/-- One witness per clause: 12, 15 and 20 marks. -/
theorem witness_VariableFrameEndsAtItsBlocks : tiny.wVfHdrMark.holds 1 = true ∧ tiny.wVfHdrSpace.holds 1 = true ∧
    (tiny.wVfMark0.holds 1 = true ∨ tiny.wVfMark1.holds 1 = true) ∧
    (∀ i < 20, 1 ≤ i → 1 < (inHeader []).vfSpaceLimit i) ∧
    (∀ i < 32, (0#32).getLsbD i = (decide (i < 20) && !tiny.wVfMark0.holds 1)) ∧
    (∀ n tail, (n, tail) ∈ [(11, idleRun tiny.vfBlkTo1), (14, idleRun tiny.vfBlkTo2), (19, [false])] →
      (inHeader (vfFrame n tail)).Inv ∧ (inHeader (vfFrame n tail)).Sees (vfFrame n tail)) :=
  ⟨by decide, by decide, by decide, by decide, by decide, fun _ _ _ => ⟨inHeader_inv _, sees_line rfl rfl rfl⟩⟩

/-- One witness per clause: a LongFrame and a VariableFrame. -/
theorem witness_LoopbackRoundTrips :
    tiny.Ok ∧ tiny.LoopbackConsistent ∧ Config.ex.LoopbackConsistent ∧ 1 + 1 ≤ (2#32).toNat ∧
    (∃ s t acts, acts = idleRun 1 ++ tiny.envLf 0x12345678#32 ++ idleRun 0 ∧ exec (.dec 2#32) s = .next t ∧
      t.Sees acts) ∧
    (∃ s t acts, acts = idleRun 1 ++ tiny.envVf 0xA5#32 ++ idleRun 3 ∧ tiny.vfBlkTo1 ≤ 3 ∧
      exec (.dec 2#32) s = .next t ∧ t.Sees acts) :=
  ⟨test_tiny_ok, by decide, by decide, by decide, ⟨_, _, _, rfl, exec_decoding _ _, decoding_sees ..⟩,
    ⟨_, _, _, rfl, by decide, exec_decoding _ _, decoding_sees ..⟩⟩

/-- One witness per clause: a line that stays active, one that goes idle, and a header mark of length 2 in no window. -/
theorem witness_NoHeaderFails :
    (4 + 0 = (3#32).toNat + 1 ∧ (decoding 3#32 (waitRuns 4 0)).Sees (waitRuns 4 0)) ∧
    (1 + 3 = (3#32).toNat + 1 ∧ (decoding 3#32 (waitRuns 1 3)).Sees (waitRuns 1 3)) ∧
    (1 + 1 + 1 ≤ (3#32).toNat ∧ 2 < tiny.symLimit ∧ tiny.wLfHdrMark.holds 2 = false ∧ tiny.wVfHdrMark.holds 2 = false ∧
      (decoding 3#32 (waitRuns 1 1 ++ actRun 2 ++ [false])).Sees (waitRuns 1 1 ++ actRun 2 ++ [false])) :=
  ⟨⟨by decide, decoding_sees ..⟩, ⟨by decide, decoding_sees ..⟩,
    ⟨by decide, by decide, by decide, by decide, decoding_sees ..⟩⟩

theorem witness_IdleLineDecodesAreIndependent : ∃ s t, exec (.dec 10#32) s = .next t ∧ t.Sees (idleRun ((10#32).toNat + 1)) :=
  ⟨_, _, exec_decoding _ _, decoding_sees ..⟩

theorem witness_DecodesDependOnlyOnTheirSamples : ∃ u, (decoding 0#32 [false]).Sees [false] ∧
    (decoding 0#32 [false]).DecodeEnds 1 u ∧ (Instr.dec 0#32).op = .decode := by
  refine ⟨_, decoding_sees .., ⟨?_, rfl, rfl, rfl, rfl⟩, rfl⟩
  intro k hk
  obtain rfl : k = 0 := by omega
  exact ⟨_, rfl, rfl⟩

theorem inHeader_noReset (n : Nat) : (inHeader (idleRun n)).NoReset n := by
  simpa [idleRun] using (sees_line (s := inHeader (idleRun n)) (acts := idleRun n) rfl rfl rfl).1

theorem witness_EveryFrameEndsWithinABound : ∃ s : State, s.Inv ∧ s.st.counts ≠ none ∧ s.NoReset (67 * s.cfg.maxLimit) :=
  ⟨_, inHeader_inv _, by simp [inHeader, Seq.counts], inHeader_noReset (67 * tiny.maxLimit)⟩

end Sys2Proof.Tests
end

section
/-! PROOFS. Family 10_state: the line registers (spec/10_state.md R22), readiness (R28), completions (R29) and the reset
edge (R34). First what each engine's edge does to `st`, `done` and `done_op`, said once. -/

namespace Sys2Proof.Machine

/-! ### Readiness and acceptance -/

@[simp] theorem State.cmdReady_eq_true_iff (s : State) (rst : Bool) :
    s.cmdReady rst = true ↔ s.st = .idle ∧ rst = false := by
  simp [State.cmdReady]

theorem State.accepts_eq_true_iff (s : State) (p : InPorts) :
    s.accepts p = true ↔ p.rst = false ∧ s.st = .idle ∧ p.cmdValid = true := by
  simp [State.accepts, and_assoc]

theorem Seq.ne_idle_of_isDecoder {q : Seq} (h : q.isDecoder = true) : q ≠ .idle := by
  rintro rfl; cases h

theorem Seq.ne_eTx_of_isDecoder {q : Seq} (h : q.isDecoder = true) : q ≠ .eTx := by
  rintro rfl; cases h

/-! ### Completing or going on -/

/-- `encode_step` ends the waveform or drives its next level (spec/42_encoder.md R145). -/
theorem State.encodeStep_cases (s : State) :
    s.encodeStep = s.releaseLine.complete .transmit ∨
      s.encodeStep = { s with ek := s.ek + 1, lineOut := s.waveAt (s.ek.toNat + 1) } := by
  unfold State.encodeStep
  split
  · exact .inl rfl
  · exact .inr rfl

theorem State.encodeStep_completes_or_goes_on (s : State) :
    (s.encodeStep.done = true ∧ s.encodeStep.st = .idle ∧ s.encodeStep.doneOp = .transmit) ∨
      (s.encodeStep.done = s.done ∧ s.encodeStep.st = s.st ∧ s.encodeStep.doneOp = s.doneOp) := by
  rcases s.encodeStep_cases with e | e <;> rw [e]
  · exact .inl ⟨rfl, rfl, rfl⟩
  · exact .inr ⟨rfl, rfl, rfl⟩

theorem State.decodeStep_completes_or_goes_on (s : State) (a : Bool) (h : s.st.isDecoder = true) :
    ((s.decodeStep a).done = true ∧ (s.decodeStep a).st = .idle ∧ (s.decodeStep a).doneOp = .decode) ∨
      ((s.decodeStep a).done = s.done ∧ (s.decodeStep a).st.isDecoder = true ∧
        (s.decodeStep a).doneOp = s.doneOp) := by
  rcases s.decodeStep_cases a h with ⟨_, _, _, _, _, _, hd, e⟩ | ⟨_, _, _, _, _, _, _, _, e⟩ <;> rw [e]
  · exact .inr ⟨rfl, hd, rfl⟩
  · exact .inl (by simp)

/-- An accepted command completes at once, as NOP and RSVD do, or is then in flight (spec/40_commands.md R102, R103). -/
theorem exec_completes_or_starts {i : Instr} {s t : State} (h : exec i s = .next t) :
    (t.done = true ∧ t.st = .idle ∧ t.doneOp = i.op ∧ (t.doneOp = .nop ∨ t.doneOp = .reserved)) ∨
      (t.done = s.done ∧ t.st ≠ .idle ∧ t.doneOp = s.doneOp) := by
  rcases exec_cases h with ⟨rfl, rfl⟩ | ⟨rfl, rfl⟩ | ⟨_, rfl, rfl⟩ | ⟨_, rfl, rfl⟩ | ⟨_, rfl, rfl⟩ | ⟨_, rfl, rfl⟩
  case inl => exact .inl ⟨rfl, rfl, rfl, .inl rfl⟩
  case inr.inl => exact .inl ⟨rfl, rfl, rfl, .inr rfl⟩
  all_goals exact .inr ⟨rfl, by simp, rfl⟩

/-- Every edge without reset is the completion of one command, which it names, or completes none and leaves the block busy
if it was busy or has just accepted a command (spec/10_state.md R29). -/
theorem step_completes_or_goes_on {s t : State} (h : step s = .next t) (hr : s.nextPorts.rst = false) :
    (t.done = true ∧ t.st = .idle ∧
      ((s.accepts s.nextPorts = true ∧ t.doneOp = (decode s.nextPorts.cmdWord).op ∧
          (t.doneOp = .nop ∨ t.doneOp = .reserved)) ∨
        (s.st = .eTx ∧ t.doneOp = .transmit) ∨ (s.st.isDecoder = true ∧ t.doneOp = .decode))) ∨
    (t.done = false ∧ t.doneOp = s.doneOp ∧ (s.st ≠ .idle → t.st ≠ .idle) ∧
      (s.accepts s.nextPorts = true → t.st ≠ .idle)) := by
  have hacc := s.accepts_eq_true_iff s.nextPorts
  rcases step_cases h with ⟨hr', -⟩ | ⟨-, hi, hv, he⟩ | ⟨-, hi, hv, rfl⟩ | ⟨-, hs, rfl⟩ | ⟨-, hd, rfl⟩
  · simp [hr] at hr'
  · rcases exec_completes_or_starts he with ⟨hdone, hst, hop, hwhich⟩ | ⟨hdone, hst, hop⟩
    · exact .inl ⟨hdone, hst, .inl ⟨hacc.2 ⟨hr, hi, hv⟩, hop, hwhich⟩⟩
    · exact .inr ⟨hdone, hop, fun _ => hst, fun _ => hst⟩
  · exact .inr ⟨rfl, rfl, id, fun ha => by simp [hacc, hv] at ha⟩
  · rcases s.begun.encodeStep_completes_or_goes_on with ⟨hdone, hst, hop⟩ | ⟨hdone, hst, hop⟩
    · exact .inl ⟨hdone, hst, .inr (.inl ⟨hs, hop⟩)⟩
    · have hb : s.begun.encodeStep.st ≠ .idle := by simp [hst, hs]
      exact .inr ⟨hdone, hop, fun _ => hb, fun _ => hb⟩
  · rcases s.begun.decodeStep_completes_or_goes_on s.seen hd with ⟨hdone, hst, hop⟩ | ⟨hdone, hst, hop⟩
    · exact .inl ⟨hdone, hst, .inr (.inr ⟨hd, hop⟩)⟩
    · have hb := Seq.ne_idle_of_isDecoder hst
      exact .inr ⟨hdone, hop, fun _ => hb, fun _ => hb⟩

/-! ### The line registers -/

theorem State.LineInv.of_released {t : State} (hst : t.st ≠ .eTx) (hoe : t.lineOe = false)
    (hout : t.lineOut = !t.cfg.txOnLevel) : t.LineInv :=
  ⟨by simp [hst, hoe], fun _ => hout⟩

theorem State.LineInv.of_driven {t : State} (hst : t.st = .eTx) (hoe : t.lineOe = true) : t.LineInv :=
  ⟨by simp [hst, hoe], by simp [hoe]⟩

/-- Outside `E_TX` the line is released, and stays so at an edge that writes neither line register and does not enter
`E_TX`. -/
theorem State.LineInv.of_unchanged {s t : State} (h : s.LineInv) (hs : s.st ≠ .eTx) (hst : t.st ≠ .eTx)
    (hoe : t.lineOe = s.lineOe) (hout : t.lineOut = s.lineOut) (hcfg : t.cfg = s.cfg) : t.LineInv := by
  have hrel : s.lineOe = false := by simpa [hs] using h.drivenIff
  exact .of_released hst (hoe.trans hrel) (by rw [hout, hcfg, h.released hrel])

theorem State.LineInv.after_begun {s : State} (h : s.LineInv) : s.begun.LineInv := ⟨h.drivenIff, h.released⟩

theorem State.LineInv.after_exec {i : Instr} {s t : State} (h : s.LineInv) (hs : s.st = .idle)
    (he : exec i s = .next t) : t.LineInv := by
  have hne : s.st ≠ .eTx := by simp [hs]
  rcases exec_cases he with ⟨-, rfl⟩ | ⟨-, rfl⟩ | ⟨_, -, rfl⟩ | ⟨_, -, rfl⟩ | ⟨_, -, rfl⟩ | ⟨_, -, rfl⟩
  · exact h.of_unchanged hne (by simp) rfl rfl rfl
  · exact h.of_unchanged hne (by simp) rfl rfl rfl
  · exact .of_driven rfl rfl
  · exact .of_driven rfl rfl
  · exact h.of_unchanged hne (by simp) rfl rfl rfl
  · exact h.of_unchanged hne (by simp) rfl rfl rfl

theorem State.LineInv.after_encodeStep {s : State} (h : s.LineInv) (hs : s.st = .eTx) : s.encodeStep.LineInv := by
  rcases s.encodeStep_cases with e | e <;> rw [e]
  · exact .of_released (by simp) rfl rfl
  · exact .of_driven hs (h.drivenIff.2 hs)

theorem State.LineInv.after_decodeStep {s : State} (h : s.LineInv) (a : Bool) (hd : s.st.isDecoder = true) :
    (s.decodeStep a).LineInv := by
  have hst : (s.decodeStep a).st ≠ .eTx := by
    rcases s.decodeStep_completes_or_goes_on a hd with ⟨-, hidle, -⟩ | ⟨-, hdec, -⟩
    · simp [hidle]
    · exact Seq.ne_eTx_of_isDecoder hdec
  exact h.of_unchanged (Seq.ne_eTx_of_isDecoder hd) hst (by simp) (by simp) (by simp)

theorem State.LineInv.after_step {s t : State} (h : s.LineInv) (hstep : step s = .next t) : t.LineInv := by
  rcases step_cases hstep with ⟨-, rfl⟩ | ⟨-, hi, -, he⟩ | ⟨-, -, -, rfl⟩ | ⟨-, hs, rfl⟩ | ⟨-, hd, rfl⟩
  · exact .of_released (by simp) rfl rfl
  · exact h.after_begun.after_exec hi he
  · exact h.after_begun
  · exact h.after_begun.after_encodeStep hs
  · exact h.after_begun.after_decodeStep _ hd

/-! ### The obligations -/

/-- Settles O16: every edge either writes both line registers together with `st`, or leaves them and stays outside
`E_TX`. -/
theorem stepKeepsLineRegisters : Obligations.StepKeepsLineRegisters := by
  unfold Obligations.StepKeepsLineRegisters
  exact ⟨fun c sync => .of_released (by simp [State.resetOf]) rfl rfl, fun s t h hstep => h.after_step hstep⟩

/-- Settles O19, from `step_completes_or_goes_on`: the two cases differ in the value of `done`. -/
theorem doneMarksCompletions : Obligations.DoneMarksCompletions := by
  unfold Obligations.DoneMarksCompletions
  intro s t h
  refine ⟨fun hr => ?_, fun hr hdone => ?_, fun hr hdone => ?_⟩
  · obtain rfl : (s.consumePorts.shiftSync s.nextPorts.lineIn).applyReset = t := by
      simpa [step_of_reset hr] using h
    exact ⟨rfl, rfl⟩
  · rcases step_completes_or_goes_on h hr with ⟨-, hidle, hwho⟩ | ⟨hnot, -⟩
    · exact ⟨hidle, by simp [hidle], hwho⟩
    · simp [hdone] at hnot
  · rcases step_completes_or_goes_on h hr with ⟨hnot, -⟩ | ⟨-, hkept⟩
    · simp [hdone] at hnot
    · exact hkept

/-- Settles O7: the port shows `cmd_ready`, which `State.cmdReady_eq_true_iff` spells out. -/
theorem readyExactlyInIdleWithoutReset : Obligations.ReadyExactlyInIdleWithoutReset := by
  unfold Obligations.ReadyExactlyInIdleWithoutReset
  exact fun s rst => s.cmdReady_eq_true_iff rst

/-- Settles O12: a reset edge shifts the synchroniser and then applies the reset values, register by register. -/
theorem resetEdgeSetsEveryRegister : Obligations.ResetEdgeSetsEveryRegister := by
  unfold Obligations.ResetEdgeSetsEveryRegister
  intro s hr
  refine ⟨_, step_of_reset hr, ?_⟩
  simp [Op.code, ResOutcome.code, Protocol.code]

end Sys2Proof.Machine
end

section
/-! PROOFS. Family 30_encoding: the command map (spec/30_encoding.md R78) and the decoder agree. A row selects a word
exactly when it bears the mnemonic of the decoded command, and no two rows bear one mnemonic. -/

namespace Sys2Proof

/-! ### The rows a word selects, by the fields `op` and `mod` -/

theorem and_opMask (w : CmdWord) : w &&& 0x0000000003#40 = packWord (opField w) 0#1 0#5 0#32 := by
  have hmask : 0x0000000003#40 = packWord (BitVec.allOnes 2) 0#1 0#5 0#32 := by decide
  conv_lhs => rw [← packWord_fields w, hmask, packWord_and]
  simp only [BitVec.and_allOnes, BitVec.and_zero]

theorem and_opModMask (w : CmdWord) :
    w &&& 0x0000000007#40 = packWord (opField w) (modField w) 0#5 0#32 := by
  have hmask : 0x0000000007#40 = packWord (BitVec.allOnes 2) (BitVec.allOnes 1) 0#5 0#32 := by decide
  conv_lhs => rw [← packWord_fields w, hmask, packWord_and]
  simp only [BitVec.and_allOnes, BitVec.and_zero]

/-- A row that masks to `op`, as NOP and RSVD do. -/
@[simp] theorem selects_opMask (m : String) (op : BitVec 2) (w : CmdWord) :
    OpcodeRow.selects ⟨m, packWord op 0#1 0#5 0#32, 0x0000000003#40⟩ w = true ↔ opField w = op := by
  simp [OpcodeRow.selects, and_opMask, packWord_inj]

/-- A row that masks to `op` and `mod`, as the TRANSMIT and DECODE commands do. -/
@[simp] theorem selects_opModMask (m : String) (op : BitVec 2) (md : BitVec 1) (w : CmdWord) :
    OpcodeRow.selects ⟨m, packWord op md 0#5 0#32, 0x0000000007#40⟩ w = true ↔
      opField w = op ∧ modField w = md := by
  simp [OpcodeRow.selects, and_opModMask, packWord_inj]

/-- The command map with each pattern written as its fields. -/
theorem opcodeTable_eq_packed : opcodeTable =
    [⟨"NOP", packWord 0b00#2 0#1 0#5 0#32, 0x0000000003#40⟩,
     ⟨"TX.LF", packWord 0b01#2 0#1 0#5 0#32, 0x0000000007#40⟩,
     ⟨"TX.VF", packWord 0b01#2 1#1 0#5 0#32, 0x0000000007#40⟩,
     ⟨"DEC", packWord 0b10#2 0#1 0#5 0#32, 0x0000000007#40⟩,
     ⟨"DEC.INF", packWord 0b10#2 1#1 0#5 0#32, 0x0000000007#40⟩,
     ⟨"RSVD", packWord 0b11#2 0#1 0#5 0#32, 0x0000000003#40⟩] := by decide

/-! ### The decoder, by the same fields -/

/-- The command of a word, with the values of `op` and `mod` that select it (spec/30_encoding.md R71, R72). -/
theorem decode_cases (w : CmdWord) :
    (decode w = .nop ∧ opField w = 0b00#2) ∨
    (decode w = .txLf (argField w) ∧ opField w = 0b01#2 ∧ modField w = 0#1) ∨
    (decode w = .txVf (argField w) ∧ opField w = 0b01#2 ∧ modField w = 1#1) ∨
    (decode w = .dec (argField w) ∧ opField w = 0b10#2 ∧ modField w = 0#1) ∨
    (decode w = .decInf (argField w) ∧ opField w = 0b10#2 ∧ modField w = 1#1) ∨
    (decode w = .rsvd ∧ opField w = 0b11#2) := by
  have hop : ∀ op : BitVec 2, op = 0b00#2 ∨ op = 0b01#2 ∨ op = 0b10#2 ∨ op = 0b11#2 := by decide
  have hmod : ∀ md : BitVec 1, md = 0#1 ∨ md = 1#1 := by decide
  rcases hop (opField w) with h | h | h | h
  · simp [decode, Op.ofCode, h]
  · rcases hmod (modField w) with hm | hm <;> simp [decode, Op.ofCode, h, hm]
  · rcases hmod (modField w) with hm | hm <;> simp [decode, Op.ofCode, h, hm]
  · simp [decode, Op.ofCode, h]

/-! ### The two agree -/

/-- A row selects a word exactly when it bears the mnemonic of the command the word decodes to. -/
theorem selects_iff_mnemonic_eq {r : OpcodeRow} (hr : r ∈ opcodeTable) (w : CmdWord) :
    r.selects w = true ↔ r.mnemonic = (decode w).mnemonic := by
  revert r
  rw [opcodeTable_eq_packed]
  rcases decode_cases w with ⟨hd, h⟩ | ⟨hd, h, hm⟩ | ⟨hd, h, hm⟩ | ⟨hd, h, hm⟩ | ⟨hd, h, hm⟩ | ⟨hd, h⟩ <;>
    simp [*, Instr.mnemonic]

/-- Every command has a row that bears its mnemonic. -/
theorem exists_row_of_mnemonic (i : Instr) : ∃ r ∈ opcodeTable, r.mnemonic = i.mnemonic := by
  cases i <;> simp [opcodeTable, Instr.mnemonic]

/-- No two rows of the command map bear the same mnemonic. -/
theorem row_eq_of_mnemonic_eq {r r' : OpcodeRow} (hr : r ∈ opcodeTable) (hr' : r' ∈ opcodeTable)
    (h : r.mnemonic = r'.mnemonic) : r = r' :=
  List.inj_on_of_nodup_map (f := OpcodeRow.mnemonic) (by decide : (opcodeTable.map OpcodeRow.mnemonic).Nodup) hr hr' h

/-! ### The obligation -/

/-- Settles O3: the rows that select a word are those that bear the decoded command's mnemonic, and there is exactly one
such row. -/
theorem exactlyOneRowSelectsEachWord : Obligations.ExactlyOneRowSelectsEachWord := by
  unfold Obligations.ExactlyOneRowSelectsEachWord
  intro w
  obtain ⟨r, hr, hm⟩ := exists_row_of_mnemonic (decode w)
  refine ⟨r, hr, (selects_iff_mnemonic_eq hr w).2 hm, hm, fun r' hr' hsel => ?_⟩
  have hm' : r'.mnemonic = (decode w).mnemonic := (selects_iff_mnemonic_eq hr' w).1 hsel
  exact row_eq_of_mnemonic_eq hr' hr (hm'.trans hm.symm)

end Sys2Proof
end

section
/-! PROOFS. Family 40_commands: NOP and RSVD (spec/40_commands.md R102, R103). The field `op` alone selects each of them,
and a completion in `IDLE` writes `done` and `done_op` only. -/

namespace Sys2Proof

/-! ### The words of NOP and RSVD -/

/-- The decoder tests no field but `op` to select NOP (spec/30_encoding.md R71, R74). -/
theorem decode_eq_nop_of_opField {w : CmdWord} (h : opField w = Op.nop.code) : decode w = .nop := by
  have hop : Op.ofCode (opField w) = .nop := by rw [h, Op.ofCode_code]
  simp only [decode, hop]

/-- The decoder tests no field but `op` to select RSVD (spec/30_encoding.md R71, R74). -/
theorem decode_eq_rsvd_of_opField {w : CmdWord} (h : opField w = Op.reserved.code) : decode w = .rsvd := by
  have hop : Op.ofCode (opField w) = .reserved := by rw [h, Op.ofCode_code]
  simp only [decode, hop]

namespace Machine

/-! ### Completing in `IDLE` -/

/-- In `IDLE` a completion's write of `st` changes nothing, which leaves its two flags (spec/40_commands.md R104). -/
theorem State.complete_of_idle {s : State} (h : s.st = .idle) (op : Op) :
    s.complete op = { s with done := true, doneOp := op } := by
  rw [State.complete, ← h]

/-! ### The obligations -/

/-- Settles O20: NOP is a completion, and in `IDLE` a completion writes its two flags only. -/
theorem nopOnlyCompletes : Obligations.NopOnlyCompletes := by
  unfold Obligations.NopOnlyCompletes
  refine ⟨fun w hw => decode_eq_nop_of_opField hw, fun s hs => ?_⟩
  calc exec .nop s = .next (s.complete .nop) := rfl
    _ = .next { s with done := true, doneOp := .nop } := by rw [State.complete_of_idle hs]

/-- Settles O21: RSVD is the same completion under its own opcode. -/
theorem rsvdOnlyCompletes : Obligations.RsvdOnlyCompletes := by
  unfold Obligations.RsvdOnlyCompletes
  refine ⟨fun w hw => decode_eq_rsvd_of_opField hw, fun s hs => ?_⟩
  calc exec .rsvd s = .next (s.complete .reserved) := rfl
    _ = .next { s with done := true, doneOp := .reserved } := by rw [State.complete_of_idle hs]

end Machine

end Sys2Proof
end

section
/-! PROOFS. Family 41_timing_windows: inclusive windows (spec/41_timing_windows.md R121) and the order of a classification
(R123). What is disjoint in a checked configuration is a pair of windows, and a pair can be tested in either order. -/

namespace Sys2Proof

/-! ### Two disjoint windows -/

theorem Window.Disjoint.holds_and_holds {a b : Window} (h : a.Disjoint b) (n : Nat) :
    (a.holds n && b.holds n) = false := by
  cases ha : a.holds n
  · rfl
  · exact h.not_both ha

/-- Two disjoint windows classify alike in either order (spec/41_timing_windows.md R123). -/
theorem Window.Disjoint.classify_swap {σ : Type} {a b : Window} (h : a.Disjoint b) (n : Nat) (x y : σ) :
    classify n [(a, x), (b, y)] = classify n [(b, y), (a, x)] := by
  rw [classify_two, classify_two]
  cases ha : a.holds n
  · simp
  · simp [h.not_both ha]

/-! ### The obligations -/

/-- Settles O34: membership is tested against both ends with `≤`. -/
theorem windowsAreInclusive : Obligations.WindowsAreInclusive := by
  unfold Obligations.WindowsAreInclusive
  exact Window.holds_iff

/-- Settles O35: items 3 to 6 of R127 make the windows of the four two-window classifications disjoint, and the
VariableFrame header space has a single window. -/
theorem classificationOrderIsInvisible : Obligations.ClassificationOrderIsInvisible := by
  unfold Obligations.ClassificationOrderIsInvisible
  rintro c n ⟨-, -, hHdrMarks, hLfHdrSpaces, hLfSpaces, hVfMarks, -⟩
  exact ⟨hHdrMarks.holds_and_holds n, hLfHdrSpaces.holds_and_holds n, hLfSpaces.holds_and_holds n,
    hVfMarks.holds_and_holds n, hHdrMarks.classify_swap n _ _, hLfHdrSpaces.classify_swap n _ _,
    hLfSpaces.classify_swap n _ _, rfl, hVfMarks.classify_swap n _ _⟩

end Sys2Proof
end

section
/-! PROOFS. Family 42_encoder: the waveforms (spec/42_encoder.md R140 to R143), an edge in `E_TX` (R145) and a whole
transmission (R144). The transmission is an induction over its cycles: `InCycle` says what holds in cycle `j`. -/

namespace Sys2Proof

open Sys2Proof.Machine

/-! ### The lengths of the waveforms (R143) -/

/-- The length of `n` bits that share `base` cycles and take `x` more for a one or `y` more for a zero. -/
theorem length_flatMap_payloadBits {f : Bool → List Level} {base x y : Nat}
    (hf : ∀ b, (f b).length = base + if b then x else y) (n : Nat) (p : Word) :
    ((List.range n).flatMap fun i => f (payloadBit p i)).length
      = n * base + (popcount n p * x + (n - popcount n p) * y) := by
  simp only [List.length_flatMap, hf, List.sum_map_add, sum_by_bit, List.map_const', List.sum_replicate,
    List.length_range, smul_eq_mul]

theorem Config.length_waveLf (c : Config) (p : Word) : (c.waveLf p).length = c.lenLf (popcount 32 p) := by
  have hbits := length_flatMap_payloadBits (fun b => c.length_lfBit b) 32 p
  simp only [Config.waveLf, Config.lenLf, List.length_append, Config.length_burst, Config.length_off, hbits]
  ring

theorem Config.length_waveVf (c : Config) (p : Word) : (c.waveVf p).length = c.lenVf (popcount 12 p) := by
  have hbit : ∀ b, (c.vfBit b).length
      = c.vfGap + if b then 2 * c.vfPulses1 * c.vfH else 2 * c.vfPulses0 * c.vfH := by
    intro b
    cases b <;> simp [Config.vfPulses, Nat.add_comm]
  have hbits := length_flatMap_payloadBits hbit 12 p
  simp only [Config.waveVf, Config.lenVf, List.length_append, Config.length_burst, Config.length_off, hbits]
  ring

/-- R127 item 10, for the waveforms themselves. -/
theorem Config.Ok.length_wave_lt {c : Config} (h : c.Ok) (pr : Protocol) (p : Word) :
    (c.wave pr p).length < 2 ^ 32 := by
  obtain ⟨-, -, -, -, -, -, -, -, -, hLf, hVf⟩ := h
  cases pr with
  | longFrame => exact (c.length_waveLf p).trans_lt (hLf _ (Nat.lt_succ_of_le (popcount_le 32 p)))
  | variableFrame => exact (c.length_waveVf p).trans_lt (hVf _ (Nat.lt_succ_of_le (popcount_le 12 p)))

/-- Every waveform of a checked configuration begins with its header burst, hence with the ON level (R144). -/
theorem Config.Ok.head?_wave {c : Config} (h : c.Ok) (pr : Protocol) (p : Word) :
    (c.wave pr p).head? = some c.txOnLevel := by
  obtain ⟨-, -, -, -, -, -, -, -, ⟨hLfH, hVfH, hLfPulses, -, -, hVfPulses, -⟩, -⟩ := h
  cases pr with
  | longFrame =>
    rw [Config.wave, Config.waveLf, List.append_assoc, List.append_assoc]
    exact c.burst_head hLfPulses hLfH _
  | variableFrame =>
    rw [Config.wave, Config.waveVf, List.append_assoc]
    exact c.burst_head hVfPulses hVfH _

/-! ### The order of a waveform's parts (R141, R142) -/

/-- What both waveforms begin with: a header, then `n` bits, bit `i` with `N i` pulses and a gap of `G i` cycles. -/
def Config.headerAndBits (c : Config) (h hdrPulses hdrGap n : Nat) (N G : Nat → Nat) : List Level :=
  c.burst hdrPulses h ++ c.off hdrGap ++ (List.range n).flatMap fun i => c.burst (N i) h ++ c.off (G i)

section
variable {c : Config} {W B : List Level} {h hdrPulses hdrGap n : Nat} {N G : Nat → Nat}

theorem Config.length_headerAndBits (c : Config) (h hdrPulses hdrGap n : Nat) (N G : Nat → Nat) :
    (c.headerAndBits h hdrPulses hdrGap n N G).length
      = segmentStart (2 * hdrPulses * h + hdrGap) (fun i => 2 * N i * h + G i) n := by
  have hbits := length_flatMap_range (fun i => c.burst (N i) h ++ c.off (G i)) (fun i => 2 * N i * h + G i)
    (by simp) n
  rw [segmentStart_add, ← hbits, Config.headerAndBits, List.length_append, List.length_append, c.length_burst,
    c.length_off]

/-- The header's burst and gap, and each bit's, stand at their positions, whatever follows. -/
theorem headerAndBits_levels (hW : W = c.headerAndBits h hdrPulses hdrGap n N G ++ B) :
    BurstAt W c.txOnLevel 0 hdrPulses h ∧ GapAt W c.txOnLevel (2 * hdrPulses * h) hdrGap ∧
      ∀ i < n,
        BurstAt W c.txOnLevel (segmentStart (2 * hdrPulses * h + hdrGap) (fun i => 2 * N i * h + G i) i) (N i) h ∧
        GapAt W c.txOnLevel
          (segmentStart (2 * hdrPulses * h + hdrGap) (fun i => 2 * N i * h + G i) i + 2 * N i * h) (G i) := by
  have hheader : (c.burst hdrPulses h ++ c.off hdrGap).length = 2 * hdrPulses * h + hdrGap := by simp
  rw [Config.headerAndBits, List.append_assoc] at hW
  have hbits := burstAt_gapAt_between (H := fun _ => h) hW hheader fun _ => rfl
  rw [List.append_assoc] at hW
  exact ⟨.of_eq (A := []) hW rfl, .of_eq hW (c.length_burst ..), hbits⟩

end

namespace Machine

/-! ### One edge in `E_TX` (R145) -/

theorem State.encodeStep_of_last {s : State} (h : s.ek.toNat + 1 = s.txWave.length) :
    s.encodeStep = s.releaseLine.complete .transmit := if_pos h

theorem State.encodeStep_of_lt {s : State} (h : s.ek.toNat + 1 < s.txWave.length) :
    s.encodeStep = { s with ek := s.ek + 1, lineOut := s.txWave[s.ek.toNat + 1] } := by
  rw [State.encodeStep, if_neg h.ne, State.waveAt, List.getD_eq_getElem _ _ h]

/-! ### A whole transmission (R144) -/

theorem run_snoc {s u v : State} {n : Nat} (h : core.run n s = .next u) (hstep : step u = .next v) :
    core.run (n + 1) s = .next v := by
  rw [run_add h, run_succ hstep, run_zero]

/-- Without a reset edge among the next `n + 1`, the coming edge is none, and the `n` after it are none. -/
theorem State.NoReset.coming_and_rest {s : State} {n : Nat} (h : s.NoReset (n + 1)) :
    s.nextPorts.rst = false ∧ s.begun.NoReset n := by
  obtain ⟨hlen, hrst⟩ := h
  rw [State.NoReset, State.begun_inputs]
  cases hi : s.inputs with
  | nil => simp [hi] at hlen
  | cons q qs =>
    rw [hi] at hlen hrst
    rw [State.nextPorts_of_inputs hi]
    exact ⟨hrst q List.mem_cons_self, Nat.le_of_succ_le_succ hlen, fun r hr => hrst r (List.mem_cons_of_mem q hr)⟩

/-- `u` is the state in cycle `j` of the transmission of `W` that was accepted in `s`, with no reset edge until its end. -/
structure State.InCycle (u s : State) (W : List Level) (j : Nat) : Prop where
  sending : u.st = .eTx
  wave    : u.txWave = W
  index   : u.ek.toNat = j
  driven  : u.lineOe = true
  level   : W[j]? = some u.lineOut
  cfg     : u.cfg = s.cfg
  result  : u.Result s.resOutcome s.resProtocol s.resBitCount s.resPayload s.resIsRepeat
  noReset : u.NoReset (W.length - j)

/-- The acceptance action drives the first element of the waveform (R146, R147). -/
theorem State.startTransmit_inCycle {s : State} {pr : Protocol} {p : Word} {W : List Level}
    (hW : W = s.cfg.wave pr p) (hhead : W.head? = some s.cfg.txOnLevel)
    (hr : (s.startTransmit pr p).NoReset W.length) : (s.startTransmit pr p).InCycle s W 0 where
  sending := rfl
  wave := hW.symm
  index := rfl
  driven := rfl
  level := by rw [← List.head?_eq_getElem?, hhead]; rfl
  cfg := rfl
  result := ⟨rfl, rfl, rfl, rfl, rfl⟩
  noReset := hr

section
variable {u s : State} {W : List Level} {j : Nat}

theorem State.InCycle.no_reset_edge (h : u.InCycle s W j) (hj : j < W.length) :
    u.nextPorts.rst = false ∧ u.begun.NoReset (W.length - (j + 1)) := by
  have hr := h.noReset
  rw [show W.length - j = W.length - (j + 1) + 1 by omega] at hr
  exact hr.coming_and_rest

/-- The edge of a cycle of a transmission, which is no reset edge, runs `encode_step`. -/
theorem State.InCycle.step_eq (h : u.InCycle s W j) (hj : j < W.length) : step u = .next u.begun.encodeStep :=
  step_of_encode (h.no_reset_edge hj).1 h.sending

/-- No edge of a transmission writes the result registers (R146). -/
theorem State.InCycle.encodeStep_result (h : u.InCycle s W j) :
    u.begun.encodeStep.Result s.resOutcome s.resProtocol s.resBitCount s.resPayload s.resIsRepeat := by
  simpa [State.Result] using h.result

/-- The index register holds the cycle's number because no waveform has `2 ^ 32` cycles. -/
theorem State.InCycle.next (h : u.InCycle s W j) (hfits : W.length < 2 ^ 32) (hj : j + 1 < W.length) :
    ∃ v, step u = .next v ∧ v.InCycle s W (j + 1) := by
  refine ⟨_, h.step_eq (by omega), ?_⟩
  have hresult := h.encodeStep_result
  have hrest := (h.no_reset_edge (by omega)).2
  obtain ⟨hst, rfl, rfl, hoe, -, hcfg, -, -⟩ := h
  have hlt : u.begun.ek.toNat + 1 < u.begun.txWave.length := hj
  rw [State.encodeStep_of_lt hlt] at hresult ⊢
  exact {
    sending := hst
    wave := rfl
    index := BitVec.toNat_add_of_lt (y := 1#32) (hj.trans hfits)
    driven := hoe
    level := List.getElem?_eq_getElem hj
    cfg := hcfg
    result := hresult
    noReset := hrest }

theorem State.InCycle.run {t : State} (h : t.InCycle s W 0) (hfits : W.length < 2 ^ 32) (hj : j < W.length) :
    ∃ u, core.run j t = .next u ∧ u.InCycle s W j := by
  induction j with
  | zero => exact ⟨t, run_zero t, h⟩
  | succ j ih =>
    obtain ⟨u, hrun, hu⟩ := ih (by omega)
    obtain ⟨v, hstep, hv⟩ := hu.next hfits hj
    exact ⟨v, run_snoc hrun hstep, hv⟩

/-- The edge of the last cycle releases the line and completes the TRANSMIT (R145). -/
theorem State.InCycle.last (h : u.InCycle s W j) (hj : j + 1 = W.length) :
    ∃ v, step u = .next v ∧ v.lineOe = false ∧ v.lineOut = !s.cfg.txOnLevel ∧ v.done = true ∧
      v.doneOp = .transmit ∧ v.st = .idle ∧
      v.Result s.resOutcome s.resProtocol s.resBitCount s.resPayload s.resIsRepeat := by
  refine ⟨_, h.step_eq (by omega), ?_⟩
  have hresult := h.encodeStep_result
  obtain ⟨-, rfl, rfl, -, -, hcfg, -, -⟩ := h
  have hlast : u.begun.ek.toNat + 1 = u.begun.txWave.length := hj
  rw [State.encodeStep_of_last hlast] at hresult ⊢
  exact ⟨rfl, congrArg (fun c : Config => !c.txOnLevel) hcfg, rfl, rfl, rfl, hresult⟩

end

/-- A TRANSMIT is accepted by `startTransmit` with its own protocol (R146, R147). -/
theorem exec_transmit {i : Instr} {pr : Protocol} {p : Word} {s t : State}
    (hi : (i = .txLf p ∧ pr = .longFrame) ∨ (i = .txVf p ∧ pr = .variableFrame)) (h : exec i s = .next t) :
    t = s.startTransmit pr p := by
  rcases hi with ⟨rfl, rfl⟩ | ⟨rfl, rfl⟩ <;> cases h <;> rfl

/-! ### The obligations -/

/-- Settles O30, by induction on the cycle (`InCycle.run`); the edge of the last cycle is `InCycle.last`. -/
theorem transmitTakesTheWaveformsLength : Obligations.TransmitTakesTheWaveformsLength := by
  unfold Obligations.TransmitTakesTheWaveformsLength
  intro s t i pr p W hi hW hok hexec hr
  have hhead : W.head? = some s.cfg.txOnLevel := by rw [hW, hok.head?_wave]
  have hfits : W.length < 2 ^ 32 := by rw [hW]; exact hok.length_wave_lt pr p
  have hpos : 0 < W.length := by
    cases W with
    | nil => cases hhead
    | cons l W => exact Nat.succ_pos _
  obtain rfl := exec_transmit hi hexec
  have h0 := State.startTransmit_inCycle hW hhead hr
  refine ⟨hhead, fun j hj => ?_, ?_⟩
  · obtain ⟨u, hrun, hu⟩ := h0.run hfits hj
    have hlevel : some W[j] = some u.lineOut := by rw [← hu.level, List.getElem?_eq_getElem hj]
    exact ⟨u, hrun, hu.sending, hu.driven, (Option.some.inj hlevel).symm, hu.index⟩
  · obtain ⟨u, hrun, hu⟩ := h0.run hfits (Nat.sub_one_lt_of_lt hpos)
    have hlen : W.length - 1 + 1 = W.length := Nat.sub_add_cancel hpos
    obtain ⟨v, hstep, hoe, hout, hdone, hop, hst, hresult⟩ := hu.last hlen
    refine ⟨v, hlen ▸ run_snoc hrun hstep, hoe, hout, hdone, ?_, ?_, hresult⟩
    · rw [hop]; rfl
    · exact (v.cmdReady_eq_true_iff false).2 ⟨hst, rfl⟩

/-- Settles O26: the waveform lengths, of which R127 item 10 bounds every one. -/
theorem waveformLengths : Obligations.WaveformLengths := by
  unfold Obligations.WaveformLengths
  intro c p k m hk hm
  have hk' : k = popcount 32 p := hk.trans List.countP_eq_length_filter.symm
  have hm' : m = popcount 12 p := hm.trans List.countP_eq_length_filter.symm
  subst hk' hm'
  exact ⟨c.length_waveLf p, c.length_waveVf p,
    fun hok => ⟨hok.length_wave_lt .longFrame p, hok.length_wave_lt .variableFrame p⟩⟩

/-- Settles O27: the LongFrame waveform is a header with 32 bits, then the closing burst. -/
theorem longWaveformSendsItsBitsInOrder : Obligations.LongWaveformSendsItsBitsInOrder := by
  unfold Obligations.LongWaveformSendsItsBitsInOrder
  rintro c p W gap start rfl hgap rfl
  obtain rfl : gap = fun i => c.lfGap (payloadBit p i) := funext hgap
  have hparts : c.waveLf p = c.headerAndBits c.lfH c.lfHdrPulses c.lfHdrGap 32 (fun _ => c.lfBitPulses)
      (fun i => c.lfGap (payloadBit p i)) ++ c.burst c.lfTrailPulses c.lfH := rfl
  obtain ⟨hhdrBurst, hhdrGap, hbits⟩ := headerAndBits_levels hparts
  have htrail : BurstAt (c.waveLf p) c.txOnLevel _ c.lfTrailPulses c.lfH :=
    .of_eq (B := []) (by rw [hparts, List.append_nil]) (c.length_headerAndBits ..)
  exact ⟨hhdrBurst, hhdrGap, hbits, htrail, by rw [hparts, List.length_append, c.length_headerAndBits, c.length_burst]⟩

/-- Settles O28: the VariableFrame waveform is a header with 12 bits and nothing more. -/
theorem variableWaveformSendsItsBitsInOrder : Obligations.VariableWaveformSendsItsBitsInOrder := by
  unfold Obligations.VariableWaveformSendsItsBitsInOrder
  rintro c p W pulses start rfl hpulses rfl
  obtain rfl : pulses = fun i => c.vfPulses (payloadBit p i) := funext hpulses
  have hparts : c.waveVf p = c.headerAndBits c.vfH c.vfHdrPulses c.vfHdrGap 12
      (fun i => c.vfPulses (payloadBit p i)) (fun _ => c.vfGap) := rfl
  obtain ⟨hhdrBurst, hhdrGap, hbits⟩ := headerAndBits_levels (hparts.trans (List.append_nil _).symm)
  exact ⟨hhdrBurst, hhdrGap, hbits, by rw [hparts, c.length_headerAndBits]⟩

/-- Settles O25: an edge in `E_TX` is `encode_step`, whose two arms are the two clauses. -/
theorem encodeStepSendsTheWaveform : Obligations.EncodeStepSendsTheWaveform := by
  unfold Obligations.EncodeStepSendsTheWaveform
  rintro s W hst hr rfl
  refine ⟨fun hlast => ?_, fun hlt => ?_⟩ <;> rw [step_of_encode hr hst]
  · rw [State.encodeStep_of_last (s := s.begun) hlast]
    rfl
  · rw [State.encodeStep_of_lt (s := s.begun) hlt]
    rfl

end Machine

end Sys2Proof
end

section
/-! PROOFS. Family 43_decoder: the decoder edge by edge (spec/43_decoder.md R160 to R182), and on the sample stream (R166, R192
to R198). A stream is read run by run: `waiting` is the decoder before the header mark, `inRun` the decoder in a run, and for
each state a lemma says which run comes next. -/

namespace Sys2Proof.Machine

/-! ### One decoder edge -/

section
variable {s : State} {L a : Bool}

/-- An edge of a decoder state whose sample is `a` does what `decode_step` does with it (R163). -/
theorem step_of_decodeStep_eq {t : State} (hr : s.nextPorts.rst = false) (hd : s.st.isDecoder = true) (ha : s.seen = a)
    (h : s.begun.decodeStep a = t) : step s = .next t := by
  rw [step_of_decode hr hd, ha, h]

/-- An edge of a measuring state below its limit only counts (spec/41_timing_windows.md R124). -/
theorem step_of_count (ho : s.cfg.Ok) (hr : s.nextPorts.rst = false) (hL : s.st.counts = some L) (ha : s.seen = L)
    (h : s.cnt + 1 < s.limit) : step s = .next { s.begun with cnt := s.cnt + 1 } :=
  step_of_decodeStep_eq hr (Seq.isDecoder_of_counts hL) ha (State.decodeStep_count (s := s.begun) ho hL h)

/-- At the limit of a measuring state, but for a block boundary's, the decode ends in TIMEOUT (R124, R125). -/
theorem step_of_limit (hr : s.nextPorts.rst = false) (hL : s.st.counts = some L) (ha : s.seen = L)
    (h : s.limit ≤ s.cnt + 1) (hb : ¬ (s.st = .dVfSpace ∧ (s.bidx = 12 ∨ s.bidx = 15))) :
    step s = .next (s.begun.endedFailed .timeout) :=
  step_of_decodeStep_eq hr (Seq.isDecoder_of_counts hL) ha (State.decodeStep_limit (s := s.begun) hL h hb)

/-- The two clauses that every measuring state with the limit `SYM_LIMIT` shares: below it an edge counts, at it the decode
ends in TIMEOUT. -/
theorem step_below_and_at_symLimit (ho : s.cfg.Ok) (hr : s.nextPorts.rst = false) (hL : s.st.counts = some L)
    (hne : s.st ≠ .dVfSpace) :
    (s.seen = L → s.cnt + 1 < s.cfg.symLimit → step s = .next { s.begun with cnt := s.cnt + 1 }) ∧
      (s.seen = L → s.cfg.symLimit ≤ s.cnt + 1 → step s = .next (s.begun.endedFailed .timeout)) := by
  rw [← State.limit_of_ne hne]
  exact ⟨step_of_count ho hr hL, fun ha h => step_of_limit hr hL ha h fun hb => hne hb.1⟩

end

/-- The overall budget is used up exactly when a limited wait has counted to `tmo` (R163). -/
theorem State.waitElapsed_eq_true_iff (s : State) : s.waitElapsed = true ↔ s.inf = false ∧ s.tmo ≤ s.wcnt := by
  simp [State.waitElapsed]

/-- A limited wait has some of its budget left, an infinite one always (R163, R167). -/
theorem State.waitElapsed_eq_false_iff (s : State) : s.waitElapsed = false ↔ s.inf = true ∨ s.wcnt < s.tmo := by
  cases h : s.inf <;> simp [State.waitElapsed, h]

section
variable {s : State}

/-- Both wait states check the budget before the sample (R163). -/
theorem State.decodeStep_of_waitElapsed (hs : s.st = .dWaitIdle ∨ s.st = .dWaitMark) (h : s.waitElapsed = true)
    (a : Bool) : s.decodeStep a = s.endedFailed .timeout := by
  rcases hs with hs | hs <;> simp only [State.decodeStep, hs, State.stepWaitIdle, State.stepWaitMark, h, if_true] <;> rfl

theorem State.decodeStep_waitIdle_active (hs : s.st = .dWaitIdle) (h : s.waitElapsed = false) :
    s.decodeStep true = s.countWait := by
  simp [State.decodeStep, hs, State.stepWaitIdle, h]

theorem State.decodeStep_waitIdle_idle (hs : s.st = .dWaitIdle) (h : s.waitElapsed = false) :
    s.decodeStep false = { s.countWait with st := .dWaitMark } := by
  simp [State.decodeStep, hs, State.stepWaitIdle, h]

theorem State.decodeStep_waitMark_active (hs : s.st = .dWaitMark) (h : s.waitElapsed = false) :
    s.decodeStep true = { s.countWait with st := .dHdrMark, cnt := s.truncCnt 1 } := by
  simp [State.decodeStep, hs, State.stepWaitMark, h]

theorem State.decodeStep_waitMark_idle (hs : s.st = .dWaitMark) (h : s.waitElapsed = false) :
    s.decodeStep false = s.countWait := by
  simp [State.decodeStep, hs, State.stepWaitMark, h]

end

/-- The second window of a pair decides where the first does not hold the length (spec/41_timing_windows.md R122). -/
theorem classify_two_of_second {σ : Type} {n : Nat} {w w' : Window} (h : w.holds n = false) (h' : w'.holds n = true)
    (x y : σ) : classify n [(w, x), (w', y)] = some y := by
  rw [classify_cons_of_not_holds h, classify_cons_of_holds h']

theorem classify_two_of_none {σ : Type} {n : Nat} {w w' : Window} (h : w.holds n = false) (h' : w'.holds n = false)
    (x y : σ) : classify n [(w, x), (w', y)] = none := by
  rw [classify_cons_of_not_holds h, classify_cons_of_not_holds h']
  rfl

/-- A run of length `n` carries bit `b` where window `w` means 0 and `w'`, checked second, means 1 (R174, R181). -/
def BitOf (w w' : Window) (n : Nat) (b : Bool) : Prop :=
  b = false ∧ w.holds n = true ∨ b = true ∧ w.holds n = false ∧ w'.holds n = true

theorem BitOf.classify {w w' : Window} {n : Nat} {b : Bool} (h : BitOf w w' n b) :
    classify n [(w, false), (w', true)] = some b := by
  rcases h with ⟨rfl, h⟩ | ⟨rfl, h, h'⟩
  · exact classify_cons_of_holds h _ _
  · exact classify_two_of_second h h' _ _

theorem BitOf.of_holds {w w' : Window} {n : Nat} (h : w.holds n = true ∨ w'.holds n = true) :
    BitOf w w' n (!w.holds n) := by
  cases hw : w.holds n with
  | true => exact .inl ⟨rfl, hw⟩
  | false => exact .inr ⟨rfl, hw, h.resolve_left (by simp [hw])⟩

/-- Between disjoint windows the one that holds the length decides the bit. -/
theorem BitOf.of_disjoint {w w' : Window} (hd : w.Disjoint w') {n : Nat} {b : Bool}
    (h : (if b then w' else w).holds n = true) : BitOf w w' n b := by
  cases b with
  | false => exact .inl ⟨rfl, h⟩
  | true => exact .inr ⟨rfl, Window.Disjoint.not_both (Or.symm hd) h, h⟩

/-- A run that carries a bit has a length from 1 to below `SYM_LIMIT` (R127 items 1 and 2). -/
theorem BitOf.range {c : Config} (ho : c.Ok) {w w' : Window} (hw : w ∈ c.windows) (hw' : w' ∈ c.windows) {n : Nat}
    {b : Bool} (h : BitOf w w' n b) : 1 ≤ n ∧ n < c.symLimit := by
  rcases h with ⟨-, h⟩ | ⟨-, -, h⟩
  · exact ho.holds_range hw h
  · exact ho.holds_range hw' h

/-! ### The sample that ends a run, window by window -/

section
variable {s : State} {b : Bool} (ho : s.cfg.Ok)
include ho

theorem State.decodeStep_hdrMark_long (hs : s.st = .dHdrMark) (h : s.cfg.wLfHdrMark.holds s.cnt = true) :
    s.decodeStep false = { s with cnt := 1, dproto := .longFrame, st := .dLfHdrSpace } := by
  rw [State.decodeStep_hdrMark_ended ho hs, Config.hdrMarkWindows, classify_cons_of_holds h]

theorem State.decodeStep_hdrMark_variable (hs : s.st = .dHdrMark) (h : s.cfg.wLfHdrMark.holds s.cnt = false)
    (h' : s.cfg.wVfHdrMark.holds s.cnt = true) :
    s.decodeStep false = { s with cnt := 1, dproto := .variableFrame, st := .dVfHdrSpace } := by
  rw [State.decodeStep_hdrMark_ended ho hs, Config.hdrMarkWindows, classify_two_of_second h h']

theorem State.decodeStep_hdrMark_error (hs : s.st = .dHdrMark) (h : s.cfg.wLfHdrMark.holds s.cnt = false)
    (h' : s.cfg.wVfHdrMark.holds s.cnt = false) :
    s.decodeStep false = ({ s with cnt := 1 } : State).endedFailed .protocolError := by
  rw [State.decodeStep_hdrMark_ended ho hs, Config.hdrMarkWindows, classify_two_of_none h h']

theorem State.decodeStep_lfHdrSpace_data (hs : s.st = .dLfHdrSpace) (h : s.cfg.wLfHdrSpace.holds s.cnt = true) :
    s.decodeStep true = { s with cnt := 1, bidx := 0, st := .dLfMark } := by
  rw [State.decodeStep_lfHdrSpace_ended ho hs, Config.lfHdrSpaceWindows, classify_cons_of_holds h]

theorem State.decodeStep_lfHdrSpace_rpt (hs : s.st = .dLfHdrSpace) (h : s.cfg.wLfHdrSpace.holds s.cnt = false)
    (h' : s.cfg.wLfRptSpace.holds s.cnt = true) :
    s.decodeStep true = { s with cnt := 1, st := .dLfRptTrail } := by
  rw [State.decodeStep_lfHdrSpace_ended ho hs, Config.lfHdrSpaceWindows, classify_two_of_second h h']

theorem State.decodeStep_lfHdrSpace_error (hs : s.st = .dLfHdrSpace) (h : s.cfg.wLfHdrSpace.holds s.cnt = false)
    (h' : s.cfg.wLfRptSpace.holds s.cnt = false) :
    s.decodeStep true = ({ s with cnt := 1 } : State).endedFailed .protocolError := by
  rw [State.decodeStep_lfHdrSpace_ended ho hs, Config.lfHdrSpaceWindows, classify_two_of_none h h']

theorem State.decodeStep_lfSpace_bit (hs : s.st = .dLfSpace)
    (hb : BitOf s.cfg.wLfSpace0 s.cfg.wLfSpace1 s.cnt b) (hi : s.bidx ≠ 31) :
    s.decodeStep true =
      { s with cnt := 1, acc := writeBit s.acc s.bidx b, bidx := s.bidx + 1, st := .dLfMark } := by
  rw [State.decodeStep_lfSpace_ended ho hs, Config.lfSpaceWindows, hb.classify]
  exact if_neg hi

theorem State.decodeStep_lfSpace_lastBit (hs : s.st = .dLfSpace)
    (hb : BitOf s.cfg.wLfSpace0 s.cfg.wLfSpace1 s.cnt b) (hi : s.bidx = 31) :
    s.decodeStep true = { s with cnt := 1, acc := writeBit s.acc s.bidx b, st := .dLfTrail } := by
  rw [State.decodeStep_lfSpace_ended ho hs, Config.lfSpaceWindows, hb.classify]
  exact if_pos hi

theorem State.decodeStep_lfSpace_error (hs : s.st = .dLfSpace) (h : s.cfg.wLfSpace0.holds s.cnt = false)
    (h' : s.cfg.wLfSpace1.holds s.cnt = false) :
    s.decodeStep true = ({ s with cnt := 1 } : State).endedFailed .protocolError := by
  rw [State.decodeStep_lfSpace_ended ho hs, Config.lfSpaceWindows, classify_two_of_none h h']

theorem State.decodeStep_vfHdrSpace_ok (hs : s.st = .dVfHdrSpace) (h : s.cfg.wVfHdrSpace.holds s.cnt = true) :
    s.decodeStep true = { s with cnt := 1, bidx := 0, st := .dVfMark } := by
  rw [State.decodeStep_vfHdrSpace_ended ho hs, if_pos h]

theorem State.decodeStep_vfHdrSpace_error (hs : s.st = .dVfHdrSpace) (h : s.cfg.wVfHdrSpace.holds s.cnt = false) :
    s.decodeStep true = ({ s with cnt := 1 } : State).endedFailed .protocolError := by
  rw [State.decodeStep_vfHdrSpace_ended ho hs, if_neg (Bool.eq_false_iff.1 h)]

theorem State.decodeStep_vfMark_bit (hs : s.st = .dVfMark)
    (hb : BitOf s.cfg.wVfMark0 s.cfg.wVfMark1 s.cnt b) (hi : s.bidx ≠ 19) :
    s.decodeStep false =
      { s with cnt := 1, acc := orBit s.acc s.bidx b, bidx := s.bidx + 1, st := .dVfSpace } := by
  rw [State.decodeStep_vfMark_ended ho hs, Config.vfMarkWindows, hb.classify]
  exact if_neg hi

theorem State.decodeStep_vfMark_lastBit (hs : s.st = .dVfMark)
    (hb : BitOf s.cfg.wVfMark0 s.cfg.wVfMark1 s.cnt b) (hi : s.bidx = 19) :
    s.decodeStep false =
      ({ s with cnt := 1 } : State).ended .success .variableFrame 20 (orBit s.acc s.bidx b) false := by
  rw [State.decodeStep_vfMark_ended ho hs, Config.vfMarkWindows, hb.classify]
  exact if_pos hi

theorem State.decodeStep_vfMark_error (hs : s.st = .dVfMark) (h : s.cfg.wVfMark0.holds s.cnt = false)
    (h' : s.cfg.wVfMark1.holds s.cnt = false) :
    s.decodeStep false = ({ s with cnt := 1 } : State).endedFailed .protocolError := by
  rw [State.decodeStep_vfMark_ended ho hs, Config.vfMarkWindows, classify_two_of_none h h']

end

/-! ### The obligations on one edge -/

/-- Settles O24: the acceptance action writes what R160 lists. -/
theorem decodesStartTheWait : Obligations.DecodesStartTheWait := by
  unfold Obligations.DecodesStartTheWait
  rintro i arg md s (⟨rfl, rfl⟩ | ⟨rfl, rfl⟩) <;> rfl

/-- Settles O33: `finish` branches on the outcome, and only the arm of SUCCESS passes the frame on. -/
theorem finishWritesTheOutcome : Obligations.FinishWritesTheOutcome := by
  unfold Obligations.FinishWritesTheOutcome
  refine fun s o p c v r => ⟨State.finish_success s p c v r, fun ho => ?_⟩
  cases o with
  | success => exact absurd rfl ho
  | none => rfl
  | timeout => rfl
  | protocolError => rfl

/-- Settles O39: with the budget left, the four clauses are the two states at the two samples. -/
theorem waitStatesCheckTheBudgetFirst : Obligations.WaitStatesCheckTheBudgetFirst := by
  unfold Obligations.WaitStatesCheckTheBudgetFirst
  intro s ho hr hs
  have hd : s.st.isDecoder = true := by rcases hs with h | h <;> rw [h] <;> rfl
  constructor
  · intro hinf hle
    have helapsed : s.begun.waitElapsed = true := (State.waitElapsed_eq_true_iff _).2 ⟨hinf, hle⟩
    exact step_of_decodeStep_eq hr hd rfl (State.decodeStep_of_waitElapsed (s := s.begun) hs helapsed _)
  · intro hleft
    have helapsed : s.begun.waitElapsed = false := (State.waitElapsed_eq_false_iff _).2 hleft
    have hcount := s.begun.countWait_eq
    have hone : s.begun.truncCnt 1 = 1 := State.truncCnt_one ho
    refine ⟨_, s.begun.countWait_wcnt, fun hst ha => ?_, fun hst ha => ?_, fun hst ha => ?_, fun hst ha => ?_⟩ <;>
      apply step_of_decodeStep_eq hr hd ha
    · rw [State.decodeStep_waitIdle_active (s := s.begun) hst helapsed, ← hcount]
    · rw [State.decodeStep_waitIdle_idle (s := s.begun) hst helapsed, hcount]
    · rw [State.decodeStep_waitMark_active (s := s.begun) hst helapsed, hcount, hone]
    · rw [State.decodeStep_waitMark_idle (s := s.begun) hst helapsed, ← hcount]

/-- Settles O40: the mark's run goes on, reaches its limit, or ends and is classified against two windows. -/
theorem headerMarkSelectsTheProtocol : Obligations.HeaderMarkSelectsTheProtocol := by
  unfold Obligations.HeaderMarkSelectsTheProtocol
  intro s ho hr hs
  have hL : s.st.counts = some true := by rw [hs]; rfl
  have hd := Seq.isDecoder_of_counts hL
  obtain ⟨hcount, hlimit⟩ := step_below_and_at_symLimit ho hr hL (by simp [hs])
  exact ⟨hcount, hlimit,
    fun ha h => step_of_decodeStep_eq hr hd ha (State.decodeStep_hdrMark_long (s := s.begun) ho hs h),
    fun ha h h' => step_of_decodeStep_eq hr hd ha (State.decodeStep_hdrMark_variable (s := s.begun) ho hs h h'),
    fun ha h h' => step_of_decodeStep_eq hr hd ha (State.decodeStep_hdrMark_error (s := s.begun) ho hs h h')⟩

/-- Settles O41: as O40, for the LongFrame header space. -/
theorem longHeaderSpacePicksDataOrRepeat : Obligations.LongHeaderSpacePicksDataOrRepeat := by
  unfold Obligations.LongHeaderSpacePicksDataOrRepeat
  intro s ho hr hs
  have hL : s.st.counts = some false := by rw [hs]; rfl
  have hd := Seq.isDecoder_of_counts hL
  obtain ⟨hcount, hlimit⟩ := step_below_and_at_symLimit ho hr hL (by simp [hs])
  exact ⟨hcount, hlimit,
    fun ha h => step_of_decodeStep_eq hr hd ha (State.decodeStep_lfHdrSpace_data (s := s.begun) ho hs h),
    fun ha h h' => step_of_decodeStep_eq hr hd ha (State.decodeStep_lfHdrSpace_rpt (s := s.begun) ho hs h h'),
    fun ha h h' => step_of_decodeStep_eq hr hd ha (State.decodeStep_lfHdrSpace_error (s := s.begun) ho hs h h')⟩

/-- Settles O42: the three states count the same run, and the sample that ends it is not classified. -/
theorem uncheckedMarksEndTheirState : Obligations.UncheckedMarksEndTheirState := by
  unfold Obligations.UncheckedMarksEndTheirState
  intro s ho hr hs
  have hL : s.st.counts = some true := by rcases hs with hs | hs | hs <;> rw [hs] <;> rfl
  have hne : s.st ≠ .dVfSpace := by rcases hs with hs | hs | hs <;> simp [hs]
  have hd := Seq.isDecoder_of_counts hL
  obtain ⟨hcount, hlimit⟩ := step_below_and_at_symLimit ho hr hL hne
  exact ⟨hcount, hlimit,
    fun ha hs => step_of_decodeStep_eq hr hd ha (State.decodeStep_lfRptTrail_ended (s := s.begun) ho hs),
    fun ha hs => step_of_decodeStep_eq hr hd ha (State.decodeStep_lfMark_ended (s := s.begun) ho hs),
    fun ha hs => step_of_decodeStep_eq hr hd ha (State.decodeStep_lfTrail_ended (s := s.begun) ho hs)⟩

/-- Settles O43: the classified bit is written at `bidx`, which `getLsbD_writeBit` reads back. -/
theorem longBitSpaceGivesTheBit : Obligations.LongBitSpaceGivesTheBit := by
  unfold Obligations.LongBitSpaceGivesTheBit
  intro s ho hr hs
  have hL : s.st.counts = some false := by rw [hs]; rfl
  have hd := Seq.isDecoder_of_counts hL
  obtain ⟨hcount, hlimit⟩ := step_below_and_at_symLimit ho hr hL (by simp [hs])
  exact ⟨hcount, hlimit,
    fun b ha hb => ⟨writeBit s.acc s.bidx b, fun i hi => getLsbD_writeBit _ _ _ hi,
      fun hi => step_of_decodeStep_eq hr hd ha (State.decodeStep_lfSpace_lastBit (s := s.begun) ho hs hb hi),
      fun hi => step_of_decodeStep_eq hr hd ha (State.decodeStep_lfSpace_bit (s := s.begun) ho hs hb hi)⟩,
    fun ha h h' => step_of_decodeStep_eq hr hd ha (State.decodeStep_lfSpace_error (s := s.begun) ho hs h h')⟩

/-- Settles O44: one window decides. -/
theorem variableHeaderSpaceIsChecked : Obligations.VariableHeaderSpaceIsChecked := by
  unfold Obligations.VariableHeaderSpaceIsChecked
  intro s ho hr hs
  have hL : s.st.counts = some false := by rw [hs]; rfl
  have hd := Seq.isDecoder_of_counts hL
  obtain ⟨hcount, hlimit⟩ := step_below_and_at_symLimit ho hr hL (by simp [hs])
  exact ⟨hcount, hlimit,
    fun ha h => step_of_decodeStep_eq hr hd ha (State.decodeStep_vfHdrSpace_ok (s := s.begun) ho hs h),
    fun ha h => step_of_decodeStep_eq hr hd ha (State.decodeStep_vfHdrSpace_error (s := s.begun) ho hs h)⟩

/-- Settles O45: the classified bit is or-ed in at `bidx`, and bit 19 ends the frame. -/
theorem variableMarkGivesTheBit : Obligations.VariableMarkGivesTheBit := by
  unfold Obligations.VariableMarkGivesTheBit
  intro s ho hr hs
  have hL : s.st.counts = some true := by rw [hs]; rfl
  have hd := Seq.isDecoder_of_counts hL
  obtain ⟨hcount, hlimit⟩ := step_below_and_at_symLimit ho hr hL (by simp [hs])
  exact ⟨hcount, hlimit,
    fun b ha hb => ⟨orBit s.acc s.bidx b, fun i hi => getLsbD_orBit _ _ _ hi,
      fun hi => step_of_decodeStep_eq hr hd ha (State.decodeStep_vfMark_lastBit (s := s.begun) ho hs hb hi),
      fun hi => step_of_decodeStep_eq hr hd ha (State.decodeStep_vfMark_bit (s := s.begun) ho hs hb hi)⟩,
    fun ha h h' => step_of_decodeStep_eq hr hd ha (State.decodeStep_vfMark_error (s := s.begun) ho hs h h')⟩

/-- Settles O46: the limit of R125 depends on `bidx`, and at a block boundary reaching it is the end of the frame. -/
theorem variableSpaceContinuesOrEndsTheFrame : Obligations.VariableSpaceContinuesOrEndsTheFrame := by
  unfold Obligations.VariableSpaceContinuesOrEndsTheFrame
  intro s lim ho hr hs hlim
  have hL : s.st.counts = some false := by rw [hs]; rfl
  have hd := Seq.isDecoder_of_counts hL
  obtain rfl : lim = s.limit := by simp [hlim, State.limit, hs]
  have hblock : s.seen = false → s.limit ≤ s.cnt + 1 → s.bidx = 12 ∨ s.bidx = 15 →
      step s = .next (s.begun.ended .success .variableFrame (s.bidx.zeroExtend 6) s.acc false) := fun ha h hb =>
    step_of_decodeStep_eq hr hd ha (State.decodeStep_blockEnd (s := s.begun) hs hb h)
  refine ⟨step_of_count ho hr hL, fun ha h hb => ?_, fun ha h hb => ?_, fun ha h hb hb' => ?_, fun ha => ?_⟩
  · rw [hblock ha h (.inl hb), hb]
    rfl
  · rw [hblock ha h (.inr hb), hb]
    rfl
  · exact step_of_limit hr hL ha h fun hboundary => hboundary.2.elim hb hb'
  · exact step_of_decodeStep_eq hr hd ha (State.decodeStep_vfSpace_ended (s := s.begun) ho hs)

/-! ### Streams and their ends -/

/-- A state that sees a stream sees each of its beginnings. -/
theorem State.Sees.of_append {s : State} {as bs : List Bool} (h : s.Sees (as ++ bs)) : s.Sees as := by
  obtain ⟨⟨hlen, hrst⟩, hacts⟩ := h
  rw [List.length_append] at hlen hrst hacts
  refine ⟨⟨by omega, fun p hp => hrst p ?_⟩, ?_⟩
  · exact List.take_subset_take_left _ (Nat.le_add_right _ _) hp
  · have := congrArg (List.take as.length) hacts
    rwa [List.take_take, Nat.min_eq_left (Nat.le_add_right _ _), List.take_left' rfl] at this

/-- The first edge clears `done`, so the decoder may be taken to start with it clear. -/
theorem State.Passes.of_clearDone {s u : State} {acts : List Bool} (h : s.clearDone.Passes acts u)
    (hne : acts ≠ []) : s.Passes acts u := by
  cases acts with
  | nil => exact absurd rfl hne
  | cons a as => exact .cons h.of_cons.1 h.of_cons.2

/-- A decode whose samples lead the decoder to `finish` ends at the edge that reads the last of them, with its result. -/
theorem State.Passes.decodeEnds_result {s u : State} {acts : List Bool} {o : ResOutcome} {p : Protocol} {c : BitVec 6}
    {v : Word} {r : Bool} (h : s.Passes acts (u.ended o p c v r)) (hl : s.sync.length = s.cfg.syncStages)
    (hs : s.Sees acts) : ∃ t, s.DecodeEnds acts.length t ∧ t.Result o p c v r := by
  obtain ⟨sy, inp, nw, he⟩ := h.decodeEnds hl hs rfl rfl rfl
  exact ⟨_, he, rfl, rfl, rfl, rfl, rfl⟩

/-- The same for a frame from its header mark's second sample on: a header mark `hm`, a header space `hs`, the runs of its
bits, and `j` idle samples. -/
theorem State.Passes.decodeEnds_variableFrame {s u : State} {hm hs j : Nat} {bits : List Bool} {o : ResOutcome}
    {p : Protocol} {c : BitVec 6} {v : Word} {r : Bool}
    (h : s.Passes (actRun hm ++ (idleRun hs ++ (bits ++ idleRun j))).tail (u.ended o p c v r))
    (hl : s.sync.length = s.cfg.syncStages) (hsees : s.Sees (actRun hm ++ idleRun hs ++ bits ++ idleRun j).tail) :
    ∃ t, s.DecodeEnds (hm + hs + bits.length + j - 1) t ∧ t.Result o p c v r := by
  have hlen : (actRun hm ++ (idleRun hs ++ (bits ++ idleRun j))).tail.length = hm + hs + bits.length + j - 1 := by
    simp [actRun, idleRun, Nat.add_assoc]
  rw [List.append_assoc, List.append_assoc] at hsees
  rw [← hlen]
  exact h.decodeEnds_result hl hsees

/-! ### The wait for the header mark (R163 to R165) -/

/-- The decoder of a DEC `T` accepted in `s`, in the wait state `q` after `n` samples. -/
def State.waiting (s : State) (T : Word) (q : Seq) (n : Nat) : State :=
  { (s.startDecode false T).clearDone with st := q, wcnt := BitVec.ofNat 32 n }

@[simp] theorem length_waitRuns (a b : Nat) : (waitRuns a b).length = a + b := by
  simp [waitRuns, actRun, idleRun]

/-- Every beginning of a wait is a wait. -/
theorem waitRuns_split {a b k : Nat} (h : k ≤ a + b) :
    ∃ a' b' rest, waitRuns a b = waitRuns a' b' ++ rest ∧ a' + b' = k := by
  rcases Nat.le_total k a with hk | hk
  · refine ⟨k, 0, waitRuns (a - k) b, ?_, rfl⟩
    simp only [waitRuns, actRun, idleRun, List.replicate_zero, List.append_nil, ← List.append_assoc,
      List.replicate_append_replicate]
    rw [Nat.add_sub_cancel' hk]
  · refine ⟨a, k - a, idleRun (b - (k - a)), ?_, by omega⟩
    simp only [waitRuns, idleRun, List.append_assoc, List.replicate_append_replicate]
    rw [Nat.add_sub_cancel' (by omega)]

/-- The wait state after the line was active and then idle for `b` samples. -/
def waitState (b : Nat) : Seq := if b = 0 then .dWaitIdle else .dWaitMark

theorem waitState_or (b : Nat) : waitState b = .dWaitIdle ∨ waitState b = .dWaitMark := by
  unfold waitState
  split
  · exact .inl rfl
  · exact .inr rfl

section
variable {s : State} {T : Word} {q : Seq} {n : Nat}

theorem State.waiting_clearDone : (s.waiting T q n).clearDone = s.waiting T q n := rfl

theorem State.waiting_not_elapsed (h : n < T.toNat) : (s.waiting T q n).waitElapsed = false := by
  refine (State.waitElapsed_eq_false_iff _).2 (.inr ?_)
  show BitVec.ofNat 32 n < T
  rw [BitVec.lt_def, BitVec.toNat_ofNat, Nat.mod_eq_of_lt (by omega)]
  exact h

theorem State.waiting_elapsed : (s.waiting T q T.toNat).waitElapsed = true := by
  refine (State.waitElapsed_eq_true_iff _).2 ⟨rfl, ?_⟩
  show T ≤ BitVec.ofNat 32 T.toNat
  rw [BitVec.ofNat_toNat, BitVec.setWidth_eq]
  exact BitVec.le_refl T

/-- Every sample of the wait counts against the budget. -/
theorem State.waiting_countWait : (s.waiting T q n).countWait = s.waiting T q (n + 1) := by
  have hw : BitVec.ofNat 32 n + 1 = BitVec.ofNat 32 (n + 1) := (BitVec.ofNat_add n 1).symm
  have e : (s.waiting T q n).countWait = { s.waiting T q n with wcnt := BitVec.ofNat 32 n + 1 } := rfl
  rw [e, hw]
  rfl

/-- A line that is still active keeps `D_WAIT_IDLE` (R164). -/
theorem State.waiting_passes_actRun {a : Nat} (h : n + a ≤ T.toNat) :
    (s.waiting T .dWaitIdle n).Passes (actRun a) (s.waiting T .dWaitIdle (n + a)) := by
  induction a generalizing n with
  | zero => exact .nil _
  | succ a ih =>
    refine .cons rfl ?_
    rw [State.waiting_clearDone, State.decodeStep_waitIdle_active rfl (State.waiting_not_elapsed (by omega)),
      State.waiting_countWait, show n + (a + 1) = n + 1 + a by omega]
    exact ih (by omega)

/-- An idle sample leads to `D_WAIT_MARK` and keeps it (R164, R165). -/
theorem State.waiting_decodeStep_idle (hq : q = .dWaitIdle ∨ q = .dWaitMark) (h : n < T.toNat) :
    (s.waiting T q n).decodeStep false = s.waiting T .dWaitMark (n + 1) := by
  have hleft : (s.waiting T q n).waitElapsed = false := State.waiting_not_elapsed h
  rcases hq with rfl | rfl
  · rw [State.decodeStep_waitIdle_idle rfl hleft, State.waiting_countWait]
    rfl
  · rw [State.decodeStep_waitMark_idle rfl hleft, State.waiting_countWait]

theorem State.waiting_passes_idleRun (hq : q = .dWaitIdle ∨ q = .dWaitMark) {b : Nat} (h : n + b ≤ T.toNat) :
    (s.waiting T q n).Passes (idleRun b) (s.waiting T (if b = 0 then q else .dWaitMark) (n + b)) := by
  induction b generalizing n q with
  | zero => exact .nil _
  | succ b ih =>
    refine .cons (by rcases hq with rfl | rfl <;> rfl) ?_
    rw [State.waiting_clearDone, State.waiting_decodeStep_idle hq (by omega), show n + (b + 1) = n + 1 + b by omega]
    have hrest := ih (q := .dWaitMark) (n := n + 1) (.inr rfl) (by omega)
    rwa [ite_self] at hrest

theorem State.waiting_passes_waitRuns {a b : Nat} (h : a + b ≤ T.toNat) :
    (s.waiting T .dWaitIdle 0).Passes (waitRuns a b) (s.waiting T (waitState b) (a + b)) := by
  have hact := State.waiting_passes_actRun (s := s) (T := T) (n := 0) (a := a) (by omega)
  rw [Nat.zero_add] at hact
  exact hact.append (State.waiting_passes_idleRun (.inl rfl) h)

/-- The budget used up, the next sample ends the wait, whatever it is (R166). -/
theorem State.startDecode_passes_timeout {a b : Nat} (h : a + b = T.toNat) (x : Bool) :
    (s.startDecode false T).Passes (waitRuns a b ++ [x]) ((s.waiting T (waitState b) T.toNat).endedFailed .timeout) := by
  refine State.Passes.of_clearDone ?_ (by simp)
  have hwait := State.waiting_passes_waitRuns (s := s) h.le
  rw [h] at hwait
  refine hwait.append (.cons ?_ ?_)
  · show (waitState b).isDecoder = true
    rcases waitState_or b with hq | hq <;> rw [hq] <;> rfl
  · have hend := State.decodeStep_of_waitElapsed (s := s.waiting T (waitState b) T.toNat) (waitState_or b)
      State.waiting_elapsed x
    rw [State.waiting_clearDone, hend]
    exact .nil _

end

/-! ### Runs and bits -/

/-- The decoder of `s` after `n` samples of a run that it measures in `q`, with `bidx = i` and `acc = v`. -/
def State.inRun (s : State) (q : Seq) (n : Nat) (d : Protocol) (i : Nat) (v : Word) : State :=
  s.goOn q n s.wcnt (BitVec.ofNat 5 i) v d

theorem State.inRun_self {s : State} {q : Seq} (hq : s.st = q) (hc : s.cnt = 1) (hb : s.bidx = 0) (ha : s.acc = 0) :
    s.inRun q 1 s.dproto 0 0 = s := by
  subst hq
  have h0 : BitVec.ofNat 5 0 = s.bidx := hb.symm
  rw [State.inRun, h0, ← hc, ← ha]
  rfl

/-- The bits `0` to `n - 1` of a payload. -/
def lowBits (v : Word) (n : Nat) : Word := (v.setWidth n).setWidth 32

theorem getLsbD_lowBits (v : Word) (n i : Nat) : (lowBits v n).getLsbD i = (decide (i < n) && v.getLsbD i) := by
  by_cases hi : i < 32
  · simp [lowBits, hi]
  · simp [BitVec.getLsbD_of_ge _ _ (Nat.le_of_not_lt hi)]

theorem lowBits_zero (v : Word) : lowBits v 0 = 0 := by
  apply BitVec.eq_of_getLsbD_eq
  intro i _
  simp [getLsbD_lowBits]

theorem lowBits_eq_self {v : Word} {n : Nat} (h : ∀ i < 32, n ≤ i → v.getLsbD i = false) : lowBits v n = v := by
  apply BitVec.eq_of_getLsbD_eq
  intro i hi
  by_cases hn : i < n
  · simp [getLsbD_lowBits, hn]
  · simp [hn, h i hi (by omega), getLsbD_lowBits]

theorem lowBits_twelve (p : Word) : lowBits p 12 = p &&& 0xFFF#32 := by
  have hmask : ∀ i < 32, (0xFFF#32).getLsbD i = decide (i < 12) := by decide
  apply BitVec.eq_of_getLsbD_eq
  intro i hi
  rw [getLsbD_lowBits, BitVec.getLsbD_and, hmask i hi, Bool.and_comm]

theorem toNat_bidx {n : Nat} (h : n < 32) : (BitVec.ofNat 5 n).toNat = n := by
  rw [BitVec.toNat_ofNat, Nat.mod_eq_of_lt h]

theorem ofNat_bidx_ne {i j : Nat} (hi : i < 32) (hj : j < 32) (h : i ≠ j) : BitVec.ofNat 5 i ≠ BitVec.ofNat 5 j := by
  intro e
  have := congrArg BitVec.toNat e
  rw [toNat_bidx hi, toNat_bidx hj] at this
  exact h this

theorem bidx_succ (n : Nat) : BitVec.ofNat 5 n + 1 = BitVec.ofNat 5 (n + 1) := (BitVec.ofNat_add n 1).symm

/-- Writing bit `n` completes the bits below `n + 1` (R174). -/
theorem writeBit_lowBits {n : Nat} (h : n < 32) (v : Word) :
    writeBit (lowBits v n) (BitVec.ofNat 5 n) (v.getLsbD n) = lowBits v (n + 1) := by
  apply BitVec.eq_of_getLsbD_eq
  intro i hi
  rw [getLsbD_writeBit _ _ _ hi, toNat_bidx h, getLsbD_lowBits, getLsbD_lowBits]
  by_cases e : i = n
  · simp [e]
  · simp [e, show i < n + 1 ↔ i < n by omega]

/-- So does or-ing it in (R181). -/
theorem orBit_lowBits {n : Nat} (h : n < 32) (v : Word) :
    orBit (lowBits v n) (BitVec.ofNat 5 n) (v.getLsbD n) = lowBits v (n + 1) := by
  apply BitVec.eq_of_getLsbD_eq
  intro i hi
  rw [getLsbD_orBit _ _ _ hi, toNat_bidx h, getLsbD_lowBits, getLsbD_lowBits]
  by_cases e : i = n
  · simp [e]
  · simp [e, show i < n + 1 ↔ i < n by omega]

theorem head?_replicate_append {x : Bool} {n : Nat} (h : 1 ≤ n) (l : List Bool) :
    (List.replicate n x ++ l).head? = some x := by
  obtain ⟨k, rfl⟩ : ∃ k, n = k + 1 := ⟨n - 1, by omega⟩
  rfl

theorem lfBitRuns_succ (n : Nat) (m g : Nat → Nat) :
    lfBitRuns (n + 1) m g = lfBitRuns n m g ++ (actRun (m n) ++ idleRun (g n)) := by
  simp [lfBitRuns, List.range_succ]

theorem lfBitRuns_head (n : Nat) (m g : Nat → Nat) (rest : List Bool) :
    lfBitRuns (n + 1) m g ++ rest =
      actRun (m 0) ++ (idleRun (g 0) ++ (lfBitRuns n (fun i => m (i + 1)) (fun i => g (i + 1)) ++ rest)) := by
  simp [lfBitRuns, List.range_succ_eq_map, List.flatMap_map]

theorem vfBitRuns_succ (n : Nat) (m g : Nat → Nat) :
    vfBitRuns (n + 1) m g = vfBitRuns n m g ++ (idleRun (g (n + 1)) ++ actRun (m (n + 1))) := by
  simp [vfBitRuns, List.range_succ]

/-! ### From the wait into the header mark -/

/-- The header mark's first sample, within the budget (R165, R166). -/
theorem State.waiting_decodeStep_mark {s : State} {T : Word} {n : Nat} (ho : s.cfg.Ok) (h : n < T.toNat) :
    (s.waiting T .dWaitMark n).decodeStep true =
      (s.waiting T .dWaitMark (n + 1)).inRun .dHdrMark 1 .longFrame 0 0 := by
  have hone : (s.waiting T .dWaitMark n).truncCnt 1 = 1 := State.truncCnt_one (s := s.waiting T .dWaitMark n) ho
  rw [State.decodeStep_waitMark_active rfl (State.waiting_not_elapsed h), State.waiting_countWait, hone]
  rfl

/-- A decode whose header mark starts within the budget, and what the decoder does from the mark's first sample on. -/
theorem State.startDecode_passes_header {s u : State} {T : Word} {a b n : Nat} {rest : List Bool} (ho : s.cfg.Ok)
    (hb : 1 ≤ b) (h : a + b + 1 ≤ T.toNat) (hn : 1 ≤ n)
    (hp : ((s.waiting T .dWaitMark (a + b + 1)).inRun .dHdrMark 1 .longFrame 0 0).Passes (actRun n ++ rest).tail u) :
    (s.startDecode false T).Passes (waitRuns a b ++ (actRun n ++ rest)) u := by
  obtain ⟨n, rfl⟩ : ∃ k, n = k + 1 := ⟨n - 1, by omega⟩
  have hwait := State.waiting_passes_waitRuns (s := s) (T := T) (a := a) (b := b) (by omega)
  rw [waitState, if_neg (by omega)] at hwait
  refine State.Passes.of_clearDone (hwait.append (.cons rfl ?_)) (by simp [actRun])
  rw [State.waiting_clearDone, State.waiting_decodeStep_mark ho h]
  exact hp

/-! ### Which run comes next -/

section
variable {s t u : State} {q : Seq} {d : Protocol} {i n : Nat} {v : Word} {L : Bool} {rest : List Bool}
  (ho : s.cfg.Ok) (hd : s.done = false)
include ho hd

/-- A whole run below its limit, and the sample that ends it. -/
theorem State.inRun_passes (hL : q.counts = some L) (h1 : 1 ≤ n) (hn : n < (s.inRun q 1 d i v).limit)
    (hstep : (s.inRun q n d i v).decodeStep (!L) = u)
    (hr : rest.head? = some (!L)) (hp : u.Passes rest.tail t) :
    (s.inRun q 1 d i v).Passes (List.replicate n L ++ rest).tail t :=
  State.passes_run (s := s.inRun q 1 d i v) hL hd rfl h1 hn (State.limit_le_pow (s := s.inRun q 1 d i v) ho) hr
    (hstep ▸ hp)

/-- The same where the limit is `SYM_LIMIT`, as it is in every state but `D_VF_SPACE` (R125). -/
theorem State.inRun_passes_symLimit (hL : q.counts = some L) (hq : q ≠ .dVfSpace) (h1 : 1 ≤ n) (hn : n < s.cfg.symLimit)
    (hstep : (s.inRun q n d i v).decodeStep (!L) = u)
    (hr : rest.head? = some (!L)) (hp : u.Passes rest.tail t) :
    (s.inRun q 1 d i v).Passes (List.replicate n L ++ rest).tail t := by
  have hlim : (s.inRun q 1 d i v).limit = s.cfg.symLimit := State.limit_of_ne (s := s.inRun q 1 d i v) hq
  exact State.inRun_passes ho hd hL h1 (hlim ▸ hn) hstep hr hp

/-- The same for a length in a window, which is below `SYM_LIMIT` (R127 items 1 and 2). -/
theorem State.inRun_passes_window {w : Window} (hw : w ∈ s.cfg.windows) (hn : w.holds n = true)
    (hL : q.counts = some L) (hq : q ≠ .dVfSpace)
    (hstep : (s.inRun q n d i v).decodeStep (!L) = u)
    (hr : rest.head? = some (!L)) (hp : u.Passes rest.tail t) :
    (s.inRun q 1 d i v).Passes (List.replicate n L ++ rest).tail t :=
  State.inRun_passes_symLimit ho hd hL hq (ho.holds_range hw hn).1 (ho.holds_range hw hn).2 hstep hr hp

theorem State.inRun_passes_hdrMark_long (hn : s.cfg.wLfHdrMark.holds n = true) (hr : rest.head? = some false)
    (hp : (s.inRun .dLfHdrSpace 1 .longFrame i v).Passes rest.tail t) :
    (s.inRun .dHdrMark 1 d i v).Passes (actRun n ++ rest).tail t :=
  State.inRun_passes_window ho hd (by simp [Config.windows]) hn rfl (by decide)
    (State.decodeStep_hdrMark_long (s := s.inRun .dHdrMark n d i v) ho rfl hn) hr hp

theorem State.inRun_passes_hdrMark_variable (hn : s.cfg.wVfHdrMark.holds n = true) (hr : rest.head? = some false)
    (hp : (s.inRun .dVfHdrSpace 1 .variableFrame i v).Passes rest.tail t) :
    (s.inRun .dHdrMark 1 d i v).Passes (actRun n ++ rest).tail t := by
  have ⟨_, _, hdisjoint, _⟩ := ho
  have hlong : s.cfg.wLfHdrMark.holds n = false := Window.Disjoint.not_both (Or.symm hdisjoint) hn
  exact State.inRun_passes_window ho hd (by simp [Config.windows]) hn rfl (by decide)
    (State.decodeStep_hdrMark_variable (s := s.inRun .dHdrMark n d i v) ho rfl hlong hn) hr hp

/-- A header mark in neither window ends the decode (R197). -/
theorem State.inRun_passes_hdrMark_error (h1 : 1 ≤ n) (hlt : n < s.cfg.symLimit)
    (hn : s.cfg.wLfHdrMark.holds n = false) (hn' : s.cfg.wVfHdrMark.holds n = false) :
    (s.inRun .dHdrMark 1 d i v).Passes (actRun n ++ [false]).tail
      ((s.inRun .dHdrMark 1 d i v).endedFailed .protocolError) :=
  State.inRun_passes_symLimit ho hd rfl (by decide) h1 hlt
    (State.decodeStep_hdrMark_error (s := s.inRun .dHdrMark n d i v) ho rfl hn hn') rfl (.nil _)

theorem State.inRun_passes_lfHdrSpace_data (hn : s.cfg.wLfHdrSpace.holds n = true) (hr : rest.head? = some true)
    (hp : (s.inRun .dLfMark 1 d 0 v).Passes rest.tail t) :
    (s.inRun .dLfHdrSpace 1 d i v).Passes (idleRun n ++ rest).tail t :=
  State.inRun_passes_window ho hd (by simp [Config.windows]) hn rfl (by decide)
    (State.decodeStep_lfHdrSpace_data (s := s.inRun .dLfHdrSpace n d i v) ho rfl hn) hr hp

theorem State.inRun_passes_lfHdrSpace_rpt (hn : s.cfg.wLfRptSpace.holds n = true) (hr : rest.head? = some true)
    (hp : (s.inRun .dLfRptTrail 1 d i v).Passes rest.tail t) :
    (s.inRun .dLfHdrSpace 1 d i v).Passes (idleRun n ++ rest).tail t := by
  have ⟨_, _, _, hdisjoint, _⟩ := ho
  have hdata : s.cfg.wLfHdrSpace.holds n = false := Window.Disjoint.not_both (Or.symm hdisjoint) hn
  exact State.inRun_passes_window ho hd (by simp [Config.windows]) hn rfl (by decide)
    (State.decodeStep_lfHdrSpace_rpt (s := s.inRun .dLfHdrSpace n d i v) ho rfl hdata hn) hr hp

theorem State.inRun_passes_lfRptTrail (h1 : 1 ≤ n) (hn : n < s.cfg.symLimit) :
    (s.inRun .dLfRptTrail 1 d i v).Passes (actRun n ++ [false]).tail
      ((s.inRun .dLfRptTrail 1 d i v).ended .success .longFrame 0 0 true) :=
  State.inRun_passes_symLimit ho hd rfl (by decide) h1 hn
    (State.decodeStep_lfRptTrail_ended (s := s.inRun .dLfRptTrail n d i v) ho rfl) rfl (.nil _)

theorem State.inRun_passes_lfTrail (h1 : 1 ≤ n) (hn : n < s.cfg.symLimit) :
    (s.inRun .dLfTrail 1 d i v).Passes (actRun n ++ [false]).tail
      ((s.inRun .dLfTrail 1 d i v).ended .success .longFrame 32 v false) :=
  State.inRun_passes_symLimit ho hd rfl (by decide) h1 hn
    (State.decodeStep_lfTrail_ended (s := s.inRun .dLfTrail n d i v) ho rfl) rfl (.nil _)

/-! ### The bits of a LongFrame (R173, R174) -/

omit hd in
/-- The space of a bit before the last one (R174). -/
theorem State.inRun_lfSpace_bit (hi : i < 31) (hb : BitOf s.cfg.wLfSpace0 s.cfg.wLfSpace1 n (v.getLsbD i)) :
    (s.inRun .dLfSpace n d i (lowBits v i)).decodeStep true =
      s.inRun .dLfMark 1 d (i + 1) (lowBits v (i + 1)) := by
  have hne : BitVec.ofNat 5 i ≠ BitVec.ofNat 5 31 := ofNat_bidx_ne (by omega) (by omega) (by omega)
  rw [State.decodeStep_lfSpace_bit (s := s.inRun .dLfSpace n d i (lowBits v i)) ho rfl hb hne]
  exact congrArg₂ (s.goOn .dLfMark 1 s.wcnt · · d) (bidx_succ i) (writeBit_lowBits (by omega) v)

omit hd in
/-- The space of the last bit. -/
theorem State.inRun_lfSpace_lastBit (hb : BitOf s.cfg.wLfSpace0 s.cfg.wLfSpace1 n (v.getLsbD 31)) :
    (s.inRun .dLfSpace n d 31 (lowBits v 31)).decodeStep true =
      s.inRun .dLfTrail 1 d 31 (lowBits v 32) := by
  rw [State.decodeStep_lfSpace_lastBit (s := s.inRun .dLfSpace n d 31 (lowBits v 31)) ho rfl hb rfl]
  exact congrArg (s.goOn .dLfTrail 1 s.wcnt (BitVec.ofNat 5 31) · d) (writeBit_lowBits (by omega) v)

/-- A data mark, which is bounded and not classified, and the space that carries the bit (R173, R174). -/
theorem State.inRun_passes_lfBit {m : Nat} (hm : 1 ≤ m) (hm' : m < s.cfg.symLimit)
    (hb : BitOf s.cfg.wLfSpace0 s.cfg.wLfSpace1 n (v.getLsbD i))
    (hstep : (s.inRun .dLfSpace n d i (lowBits v i)).decodeStep true = u)
    (hr : rest.head? = some true) (hp : u.Passes rest.tail t) :
    (s.inRun .dLfMark 1 d i (lowBits v i)).Passes (actRun m ++ (idleRun n ++ rest)).tail t := by
  obtain ⟨h1, hn⟩ := hb.range ho (by simp [Config.windows]) (by simp [Config.windows])
  refine State.inRun_passes_symLimit ho hd rfl (by decide) hm hm'
    (State.decodeStep_lfMark_ended (s := s.inRun .dLfMark m d i (lowBits v i)) ho rfl)
    (head?_replicate_append h1 _) ?_
  exact State.inRun_passes_symLimit (q := .dLfSpace) ho hd rfl (by decide) h1 hn hstep hr hp

/-- The first `k` bits of a data frame, by induction on `k`. -/
theorem State.inRun_passes_lfBitRuns {m g : Nat → Nat} (hm : ∀ i < 32, 1 ≤ m i ∧ m i < s.cfg.symLimit)
    (hg : ∀ i < 32, BitOf s.cfg.wLfSpace0 s.cfg.wLfSpace1 (g i) (v.getLsbD i)) {k : Nat} (hk : k ≤ 31)
    (hr : rest.head? = some true) (hp : (s.inRun .dLfMark 1 d k (lowBits v k)).Passes rest.tail t) :
    (s.inRun .dLfMark 1 d 0 0).Passes (lfBitRuns k m g ++ rest).tail t := by
  induction k generalizing rest with
  | zero => rwa [lowBits_zero] at hp
  | succ k ih =>
    obtain ⟨h1, hlim⟩ := hm k (by omega)
    rw [lfBitRuns_succ, List.append_assoc, List.append_assoc]
    refine ih (by omega) (head?_replicate_append h1 _) ?_
    have hbit := hg k (by omega)
    exact State.inRun_passes_lfBit ho hd h1 hlim hbit (State.inRun_lfSpace_bit ho hk hbit) hr hp

/-- A whole data frame (R176). -/
theorem State.inRun_passes_longFrame {hm hs tl : Nat} {m g : Nat → Nat} (hhm : s.cfg.wLfHdrMark.holds hm = true)
    (hhs : s.cfg.wLfHdrSpace.holds hs = true) (hbm : ∀ i < 32, 1 ≤ m i ∧ m i < s.cfg.symLimit)
    (hbg : ∀ i < 32, BitOf s.cfg.wLfSpace0 s.cfg.wLfSpace1 (g i) (v.getLsbD i)) (htl : 1 ≤ tl)
    (htl' : tl < s.cfg.symLimit) :
    (s.inRun .dHdrMark 1 d 0 0).Passes (actRun hm ++ (idleRun hs ++ (lfBitRuns 32 m g ++ (actRun tl ++ [false])))).tail
      ((s.inRun .dLfTrail 1 .longFrame 31 (lowBits v 32)).ended .success .longFrame 32 v false) := by
  have hhs1 := (ho.holds_range (by simp [Config.windows]) hhs).1
  obtain ⟨hm0, -⟩ := hbm 0 (by omega)
  obtain ⟨hm31, hm31'⟩ := hbm 31 (by omega)
  have hbits : (lfBitRuns 32 m g ++ (actRun tl ++ [false])).head? = some true := by
    rw [lfBitRuns_head]
    exact head?_replicate_append hm0 _
  refine State.inRun_passes_hdrMark_long ho hd hhm (head?_replicate_append hhs1 _) ?_
  refine State.inRun_passes_lfHdrSpace_data ho hd hhs hbits ?_
  rw [lfBitRuns_succ 31, List.append_assoc, List.append_assoc]
  refine State.inRun_passes_lfBitRuns ho hd hbm hbg le_rfl (head?_replicate_append hm31 _) ?_
  refine State.inRun_passes_lfBit ho hd hm31 hm31' (hbg 31 (by omega))
    (State.inRun_lfSpace_lastBit ho (hbg 31 (by omega))) (head?_replicate_append htl _) ?_
  have hall : lowBits v 32 = v := lowBits_eq_self (by omega)
  rw [hall]
  exact State.inRun_passes_lfTrail ho hd htl htl'

/-! ### The bits of a VariableFrame (R179 to R182) -/

theorem State.inRun_passes_vfHdrSpace (hn : s.cfg.wVfHdrSpace.holds n = true) (hr : rest.head? = some true)
    (hp : (s.inRun .dVfMark 1 d 0 v).Passes rest.tail t) :
    (s.inRun .dVfHdrSpace 1 d i v).Passes (idleRun n ++ rest).tail t :=
  State.inRun_passes_window ho hd (by simp [Config.windows]) hn rfl (by decide)
    (State.decodeStep_vfHdrSpace_ok (s := s.inRun .dVfHdrSpace n d i v) ho rfl hn) hr hp

omit hd in
/-- The mark of a bit before the twentieth (R181). -/
theorem State.inRun_vfMark_bit (hi : i < 19) (hb : BitOf s.cfg.wVfMark0 s.cfg.wVfMark1 n (v.getLsbD i)) :
    (s.inRun .dVfMark n d i (lowBits v i)).decodeStep false =
      s.inRun .dVfSpace 1 d (i + 1) (lowBits v (i + 1)) := by
  have hne : BitVec.ofNat 5 i ≠ BitVec.ofNat 5 19 := ofNat_bidx_ne (by omega) (by omega) (by omega)
  rw [State.decodeStep_vfMark_bit (s := s.inRun .dVfMark n d i (lowBits v i)) ho rfl hb hne]
  exact congrArg₂ (s.goOn .dVfSpace 1 s.wcnt · · d) (bidx_succ i) (orBit_lowBits (by omega) v)

omit hd in
/-- The twentieth mark ends the frame (R181). -/
theorem State.inRun_vfMark_lastBit (hb : BitOf s.cfg.wVfMark0 s.cfg.wVfMark1 n (v.getLsbD 19)) :
    (s.inRun .dVfMark n d 19 (lowBits v 19)).decodeStep false =
      (s.inRun .dVfMark 1 d 19 (lowBits v 19)).ended .success .variableFrame 20 (lowBits v 20) false := by
  rw [State.decodeStep_vfMark_lastBit (s := s.inRun .dVfMark n d 19 (lowBits v 19)) ho rfl hb rfl]
  exact congrArg (State.ended _ .success .variableFrame 20 · false) (orBit_lowBits (by omega) v)

theorem State.inRun_passes_vfMark (hb : BitOf s.cfg.wVfMark0 s.cfg.wVfMark1 n (v.getLsbD i))
    (hstep : (s.inRun .dVfMark n d i (lowBits v i)).decodeStep false = u)
    (hr : rest.head? = some false) (hp : u.Passes rest.tail t) :
    (s.inRun .dVfMark 1 d i (lowBits v i)).Passes (actRun n ++ rest).tail t := by
  obtain ⟨h1, hn⟩ := hb.range ho (by simp [Config.windows]) (by simp [Config.windows])
  exact State.inRun_passes_symLimit ho hd rfl (by decide) h1 hn hstep hr hp

omit ho hd in
/-- The limit of the space before bit `i` (R125). -/
theorem State.inRun_vfSpace_limit (hi : i < 32) : (s.inRun .dVfSpace 1 d i v).limit = s.vfSpaceLimit i := by
  have hbidx : ∀ j < 32, (BitVec.ofNat 5 i = BitVec.ofNat 5 j ↔ i = j) := fun j hj =>
    ⟨fun e => by_contra fun hne => ofNat_bidx_ne hi hj hne e, fun e => e ▸ rfl⟩
  have h12 := hbidx 12 (by omega)
  have h15 := hbidx 15 (by omega)
  simp only [State.limit, State.vfSpaceLimit, State.inRun, State.goOn, true_and]
  exact if_congr h12 rfl (if_congr h15 rfl rfl)

theorem State.inRun_passes_vfSpace (hi : i < 32) (h1 : 1 ≤ n) (hn : n < s.vfSpaceLimit i)
    (hr : rest.head? = some true) (hp : (s.inRun .dVfMark 1 d i v).Passes rest.tail t) :
    (s.inRun .dVfSpace 1 d i v).Passes (idleRun n ++ rest).tail t :=
  State.inRun_passes ho hd rfl h1 (State.inRun_vfSpace_limit hi ▸ hn)
    (State.decodeStep_vfSpace_ended (s := s.inRun .dVfSpace n d i v) ho rfl) hr hp

/-- An idle line of the block's limit ends the frame at a block boundary (R182). -/
theorem State.inRun_passes_blockEnd (hi : i = 12 ∨ i = 15) :
    ∃ w : State, (s.inRun .dVfSpace 1 d i v).Passes (idleRun (s.vfSpaceLimit i)).tail
      (w.ended .success .variableFrame (BitVec.ofNat 6 i) v false) := by
  have hlim : (s.inRun .dVfSpace 1 d i v).limit = s.vfSpaceLimit i := State.inRun_vfSpace_limit (by omega)
  have htwo := State.two_le_limit (s := s.inRun .dVfSpace 1 d i v) ho
  have hfits := State.limit_le_pow (s := s.inRun .dVfSpace 1 d i v) ho
  obtain ⟨k, hk⟩ : ∃ k, s.vfSpaceLimit i = k + 2 := ⟨s.vfSpaceLimit i - 2, by omega⟩
  have hidle : (idleRun (s.vfSpaceLimit i)).tail = List.replicate k false ++ [false] := by
    rw [hk, ← List.replicate_succ']
    rfl
  rw [hidle]
  have hcount : (s.inRun .dVfSpace 1 d i v).Passes (List.replicate k false) (s.inRun .dVfSpace (1 + k) d i v) :=
    State.passes_replicate (s := s.inRun .dVfSpace 1 d i v) rfl hd (by show 1 + k < _; omega) hfits
  have hbidx : BitVec.ofNat 5 i = 12 ∨ BitVec.ofNat 5 i = 15 := by rcases hi with rfl | rfl <;> decide
  have hfull : (s.inRun .dVfSpace (1 + k) d i v).limit ≤ 1 + k + 1 := by
    show (s.inRun .dVfSpace 1 d i v).limit ≤ _
    omega
  have hend := State.decodeStep_blockEnd (s := s.inRun .dVfSpace (1 + k) d i v) rfl hbidx hfull
  refine ⟨s.inRun .dVfSpace (1 + k) d i v, hcount.append (.cons rfl ?_)⟩
  rw [State.clearDone_of_not_done (s := s.inRun .dVfSpace (1 + k) d i v) hd, hend]
  rcases hi with rfl | rfl <;> exact .nil _

/-- The marks `0` to `k` and the spaces between them, by induction on `k`; `u` is what the end of mark `k` leads to. -/
theorem State.inRun_passes_vfBitRuns {m g : Nat → Nat} {k : Nat} (hk : k ≤ 19)
    (hm : ∀ i ≤ k, BitOf s.cfg.wVfMark0 s.cfg.wVfMark1 (m i) (v.getLsbD i))
    (hg : ∀ i, 1 ≤ i → i ≤ k → 1 ≤ g i ∧ g i < s.vfSpaceLimit i)
    (hstep : (s.inRun .dVfMark (m k) d k (lowBits v k)).decodeStep false = u)
    (hr : rest.head? = some false) (hp : u.Passes rest.tail t) :
    (s.inRun .dVfMark 1 d 0 0).Passes (vfBitRuns k m g ++ rest).tail t := by
  induction k generalizing rest u with
  | zero =>
    have hmark := State.inRun_passes_vfMark ho hd (hm 0 le_rfl) hstep hr hp
    rw [lowBits_zero] at hmark
    simpa [vfBitRuns] using hmark
  | succ k ih =>
    obtain ⟨h1, hlim⟩ := hg (k + 1) (by omega) le_rfl
    have hmark := hm (k + 1) le_rfl
    obtain ⟨hm1, -⟩ := hmark.range ho (by simp [Config.windows]) (by simp [Config.windows])
    rw [vfBitRuns_succ, List.append_assoc, List.append_assoc]
    refine ih (by omega) (fun i hi => hm i (by omega)) (fun i hi hi' => hg i hi (by omega))
      (State.inRun_vfMark_bit ho hk (hm k (by omega))) (head?_replicate_append h1 _) ?_
    exact State.inRun_passes_vfSpace ho hd (by omega) h1 hlim (head?_replicate_append hm1 _)
      (State.inRun_passes_vfMark ho hd hmark hstep hr hp)

/-- A VariableFrame from its header mark to the end of mark `k`, which leads to `u`. -/
theorem State.inRun_passes_variableFrame {hm hs : Nat} {m g : Nat → Nat} {k : Nat}
    (hhm : s.cfg.wVfHdrMark.holds hm = true) (hhs : s.cfg.wVfHdrSpace.holds hs = true) (hk : k ≤ 19)
    (hbm : ∀ i ≤ k, BitOf s.cfg.wVfMark0 s.cfg.wVfMark1 (m i) (v.getLsbD i))
    (hbg : ∀ i, 1 ≤ i → i ≤ k → 1 ≤ g i ∧ g i < s.vfSpaceLimit i)
    (hstep : (s.inRun .dVfMark (m k) .variableFrame k (lowBits v k)).decodeStep false = u)
    (hr : rest.head? = some false) (hp : u.Passes rest.tail t) :
    (s.inRun .dHdrMark 1 d 0 0).Passes (actRun hm ++ (idleRun hs ++ (vfBitRuns k m g ++ rest))).tail t := by
  have hhs1 := (ho.holds_range (by simp [Config.windows]) hhs).1
  have hm1 := ((hbm 0 (Nat.zero_le k)).range ho (by simp [Config.windows]) (by simp [Config.windows])).1
  have hbits : (vfBitRuns k m g ++ rest).head? = some true := by
    rw [vfBitRuns, List.append_assoc]
    exact head?_replicate_append hm1 _
  exact State.inRun_passes_hdrMark_variable ho hd hhm (head?_replicate_append hhs1 _)
    (State.inRun_passes_vfHdrSpace ho hd hhs hbits (State.inRun_passes_vfBitRuns ho hd hk hbm hbg hstep hr hp))

/-- Twelve or fifteen marks, then an idle line of the block's limit (R183). -/
theorem State.inRun_passes_variableBlocks {hm hs : Nat} {m g : Nat → Nat} {k : Nat}
    (hhm : s.cfg.wVfHdrMark.holds hm = true) (hhs : s.cfg.wVfHdrSpace.holds hs = true) (hk : k + 1 = 12 ∨ k + 1 = 15)
    (hbm : ∀ i ≤ k, BitOf s.cfg.wVfMark0 s.cfg.wVfMark1 (m i) (v.getLsbD i))
    (hbg : ∀ i, 1 ≤ i → i ≤ k → 1 ≤ g i ∧ g i < s.vfSpaceLimit i) :
    ∃ w : State, (s.inRun .dHdrMark 1 d 0 0).Passes
      (actRun hm ++ (idleRun hs ++ (vfBitRuns k m g ++ idleRun (s.vfSpaceLimit (k + 1))))).tail
      (w.ended .success .variableFrame (BitVec.ofNat 6 (k + 1)) (lowBits v (k + 1)) false) := by
  obtain ⟨w, hend⟩ := State.inRun_passes_blockEnd (d := .variableFrame) (v := lowBits v (k + 1)) ho hd hk
  have htwo : 2 ≤ s.vfSpaceLimit (k + 1) := by
    rw [← State.inRun_vfSpace_limit (d := .longFrame) (v := 0) (by omega)]
    exact State.two_le_limit ho
  have hidle : (idleRun (s.vfSpaceLimit (k + 1))).head? = some false := by
    rw [← List.append_nil (idleRun _)]
    exact head?_replicate_append (by omega) []
  exact ⟨w, State.inRun_passes_variableFrame ho hd hhm hhs (by omega) hbm hbg
    (State.inRun_vfMark_bit ho (by omega) (hbm k le_rfl)) hidle hend⟩

/-- Twenty marks, then one idle sample (R183). -/
theorem State.inRun_passes_twentyBits {hm hs : Nat} {m g : Nat → Nat} (hhm : s.cfg.wVfHdrMark.holds hm = true)
    (hhs : s.cfg.wVfHdrSpace.holds hs = true)
    (hbm : ∀ i ≤ 19, BitOf s.cfg.wVfMark0 s.cfg.wVfMark1 (m i) (v.getLsbD i))
    (hbg : ∀ i, 1 ≤ i → i ≤ 19 → 1 ≤ g i ∧ g i < s.vfSpaceLimit i) :
    (s.inRun .dHdrMark 1 d 0 0).Passes (actRun hm ++ (idleRun hs ++ (vfBitRuns 19 m g ++ [false]))).tail
      ((s.inRun .dVfMark 1 .variableFrame 19 (lowBits v 19)).ended .success .variableFrame 20 (lowBits v 20) false) :=
  State.inRun_passes_variableFrame ho hd hhm hhs le_rfl hbm hbg (State.inRun_vfMark_lastBit ho (hbm 19 le_rfl)) rfl
    (.nil _)

end

/-! ### What the statements start from -/

theorem exec_dec {s t : State} {T : Word} (h : exec (.dec T) s = .next t) : t = s.startDecode false T := by
  cases h
  rfl

/-- A block that meets the invariant and is busy shows no completion. -/
theorem State.Inv.done_eq_false {s : State} (h : s.Inv) (hs : s.st ≠ .idle) : s.done = false :=
  Bool.eq_false_iff.2 fun hd => hs (h.doneIdle hd)

/-- In the header mark no bit is classified yet. -/
theorem State.Inv.inRun_hdrMark {s : State} (h : s.Inv) (hs : s.st = .dHdrMark) (hc : s.cnt = 1) :
    s.inRun .dHdrMark 1 s.dproto 0 0 = s := by
  have hbidx : s.bidx = 0 := by
    have := h.decoder.bidx
    rwa [State.bidxOk, hs] at this
  have hacc : s.acc = 0 := by
    apply BitVec.eq_of_getLsbD_eq
    intro i _
    have hhigh := h.decoder.accHigh (by rw [hs]; rfl) (by simp [hs]) i (by simp [hbidx])
    simpa using hhigh
  exact State.inRun_self hs hc hbidx hacc

/-! ### Envelopes as runs (R149) -/

/-- The LongFrame envelope up to its last active sample. -/
def longRuns (c : Config) (p : Word) : List Bool :=
  actRun ((2 * c.lfHdrPulses - 1) * c.lfH) ++ (idleRun (c.lfH + c.lfHdrGap) ++
    (lfBitRuns 32 (fun _ => (2 * c.lfBitPulses - 1) * c.lfH) (fun i => c.lfH + c.lfGap (payloadBit p i)) ++
      actRun ((2 * c.lfTrailPulses - 1) * c.lfH)))

/-- The VariableFrame envelope up to its last active sample. -/
def variableRuns (c : Config) (p : Word) : List Bool :=
  actRun ((2 * c.vfHdrPulses - 1) * c.vfH) ++ (idleRun (c.vfH + c.vfHdrGap) ++
    vfBitRuns 11 (fun i => (2 * c.vfPulses (payloadBit p i) - 1) * c.vfH) (fun _ => c.vfH + c.vfGap))

theorem envLf_eq_runs (c : Config) (p : Word) : c.envLf p = longRuns c p ++ idleRun c.lfH := by
  simp [Config.envLf, envBurst, longRuns, lfBitRuns]

/-- Marks each with the same space behind it are the runs of bits with one space left over. -/
theorem flatMap_marks_eq_vfBitRuns (n : Nat) (m : Nat → Nat) (g : Nat) :
    ((List.range (n + 1)).flatMap fun i => actRun (m i) ++ idleRun g) = vfBitRuns n m (fun _ => g) ++ idleRun g := by
  induction n with
  | zero => simp [vfBitRuns]
  | succ n ih =>
    rw [List.range_succ, List.flatMap_append, ih, vfBitRuns_succ]
    simp

theorem envVf_eq_runs (c : Config) (p : Word) : c.envVf p = variableRuns c p ++ idleRun (c.vfH + c.vfGap) := by
  have hbits := flatMap_marks_eq_vfBitRuns 11 (fun i => (2 * c.vfPulses (payloadBit p i) - 1) * c.vfH) (c.vfH + c.vfGap)
  simp only [Config.envVf, variableRuns, envBurst, List.append_assoc]
  rw [hbits]

/-- The bits that a loopback-consistent configuration reads from its own gaps (R193). -/
theorem bitOf_lfGap {c : Config} (ho : c.Ok) (h : c.LoopbackConsistent) (b : Bool) :
    BitOf c.wLfSpace0 c.wLfSpace1 (c.lfH + c.lfGap b) b := by
  have ⟨_, _, _, _, hdisjoint, _⟩ := ho
  obtain ⟨-, ⟨hzero, hone⟩, -⟩ := h
  cases b with
  | false => exact .of_disjoint hdisjoint hzero
  | true => exact .of_disjoint hdisjoint hone

/-- And from its own bursts. -/
theorem bitOf_vfPulses {c : Config} (ho : c.Ok) (h : c.LoopbackConsistent) (b : Bool) :
    BitOf c.wVfMark0 c.wVfMark1 ((2 * c.vfPulses b - 1) * c.vfH) b := by
  have ⟨_, _, _, _, _, hdisjoint, _⟩ := ho
  obtain ⟨-, -, -, -, ⟨hzero, hone⟩, -⟩ := h
  cases b with
  | false => exact .of_disjoint hdisjoint hzero
  | true => exact .of_disjoint hdisjoint hone

section
variable {s : State} {T : Word} {k : Nat} (ho : s.cfg.Ok) (hloop : s.cfg.LoopbackConsistent) (hk : 1 ≤ k)
  (hT : k + 1 ≤ T.toNat)
include ho hloop hk hT

/-- The LongFrame round trip, up to the closing burst's first idle sample (R193). -/
theorem State.startDecode_passes_longRuns (p : Word) :
    ∃ w : State, (s.startDecode false T).Passes (idleRun k ++ (longRuns s.cfg p ++ idleRun 1))
      (w.ended .success .longFrame 32 p false) := by
  have hbits := fun i (_ : i < 32) => bitOf_lfGap ho hloop (payloadBit p i)
  have ⟨_, _, _, _, _, _, _, _, ⟨hH, _, _, hbitPulses, htrailPulses, _⟩, _⟩ := ho
  obtain ⟨⟨hhdr, hhdrSpace⟩, -, ⟨hmark, htrail⟩, -⟩ := hloop
  have hmark1 : 1 ≤ (2 * s.cfg.lfBitPulses - 1) * s.cfg.lfH := Nat.mul_pos (by omega) hH
  have htrail1 : 1 ≤ (2 * s.cfg.lfTrailPulses - 1) * s.cfg.lfH := Nat.mul_pos (by omega) hH
  have hcfg : (s.waiting T .dWaitMark (0 + k + 1)).cfg.Ok := ho
  have hframe := State.inRun_passes_longFrame (d := .longFrame) hcfg rfl hhdr hhdrSpace (fun _ _ => ⟨hmark1, hmark⟩)
    hbits htrail1 htrail
  have hp := State.startDecode_passes_header (a := 0) ho hk (by omega)
    (ho.holds_range (by simp [Config.windows]) hhdr).1 hframe
  simp only [longRuns, List.append_assoc]
  exact ⟨_, hp⟩

/-- The VariableFrame round trip, up to the end of the first block's wait (R193). -/
theorem State.startDecode_passes_variableRuns (p : Word) :
    ∃ w : State, (s.startDecode false T).Passes (idleRun k ++ (variableRuns s.cfg p ++ idleRun s.cfg.vfBlkTo1))
      (w.ended .success .variableFrame 12 (p &&& 0xFFF#32) false) := by
  have hbits := fun i (_ : i ≤ 11) => bitOf_vfPulses ho hloop (payloadBit p i)
  have ⟨_, _, _, _, _, _, _, _, ⟨_, hH, _⟩, _⟩ := ho
  obtain ⟨-, -, -, ⟨hhdr, hhdrSpace⟩, -, ⟨hgap, -⟩⟩ := hloop
  have hcfg : (s.waiting T .dWaitMark (0 + k + 1)).cfg.Ok := ho
  have hspaces : ∀ i, 1 ≤ i → i ≤ 11 → 1 ≤ s.cfg.vfH + s.cfg.vfGap ∧
      s.cfg.vfH + s.cfg.vfGap < (s.waiting T .dWaitMark (0 + k + 1)).vfSpaceLimit i := fun i _ hi => by
    rw [State.vfSpaceLimit, if_neg (by omega), if_neg (by omega)]
    exact ⟨by omega, hgap⟩
  obtain ⟨w, hframe⟩ := State.inRun_passes_variableBlocks (d := .longFrame) (k := 11) hcfg rfl hhdr hhdrSpace (.inl rfl)
    hbits hspaces
  have hp := State.startDecode_passes_header (a := 0) ho hk (by omega)
    (ho.holds_range (by simp [Config.windows]) hhdr).1 hframe
  rw [lowBits_twelve] at hp
  simp only [variableRuns, List.append_assoc]
  exact ⟨w, hp⟩

end

/-- A decode of `k` idle samples and an envelope that ends in an idle line of `g`: where it ends after `j` idle samples of
that line and the `tail` behind it, it ends `j` samples after the envelope's last active one. -/
theorem State.Passes.decodeEnds_envelope {s u : State} {A E : List Bool} {k g j tail : Nat} {o : ResOutcome}
    {p : Protocol} {c : BitVec 6} {v : Word} {r : Bool} (hE : E = A ++ idleRun g) (hj : j ≤ g + tail)
    (hl : s.sync.length = s.cfg.syncStages) (hs : s.Sees (idleRun k ++ E ++ idleRun tail))
    (hp : s.Passes (idleRun k ++ (A ++ idleRun j)) (u.ended o p c v r)) :
    ∃ t, s.DecodeEnds (k + E.length + j - g) t ∧ t.Result o p c v r := by
  have hidle : idleRun g ++ idleRun tail = idleRun j ++ idleRun (g + tail - j) := by
    simp only [idleRun, List.replicate_append_replicate]
    rw [Nat.add_sub_cancel' hj]
  have hsplit : idleRun k ++ E ++ idleRun tail = idleRun k ++ (A ++ idleRun j) ++ idleRun (g + tail - j) := by
    rw [hE]
    simp only [List.append_assoc, hidle]
  have hlen : (idleRun k ++ (A ++ idleRun j)).length = k + E.length + j - g := by
    simp only [hE, idleRun, List.length_append, List.length_replicate]
    omega
  rw [hsplit] at hs
  rw [← hlen]
  exact hp.decodeEnds_result hl hs.of_append

/-! ### Two decodes with the same samples (R192) -/

/-- The decoder's registers, the configuration and the result registers of `s` and `s'` agree. -/
structure State.Alike (s s' : State) : Prop where
  decoder : s.decoderOn s' = s'
  result  : s'.Result s.resOutcome s.resProtocol s.resBitCount s.resPayload s.resIsRepeat

section
variable {s s' u : State}

theorem State.Alike.st_eq (h : s.Alike s') : s'.st = s.st := by
  rw [← h.decoder]
  rfl

theorem State.Alike.startDecode (hc : s.cfg = s'.cfg) (md : Bool) (T : Word) :
    (s.startDecode md T).Alike (s'.startDecode md T) :=
  ⟨State.decoderOn_eq hc rfl rfl rfl rfl rfl rfl rfl rfl, rfl, rfl, rfl, rfl, rfl⟩

theorem State.Alike.clearDone (h : s.Alike s') : s.clearDone.Alike s'.clearDone := by
  obtain ⟨hdec, hres⟩ := h
  exact ⟨congrArg State.clearDone hdec, hres⟩

/-- A decoder edge does the same to both, because it reads nothing else (`decodeStep_spec`). -/
theorem State.Alike.decodeStep (h : s.Alike s') (hd : s.st.isDecoder = true) (a : Bool) :
    (s.decodeStep a).Alike (s'.decodeStep a) := by
  obtain ⟨hdec, hres⟩ := h
  rcases s.decodeStep_spec a hd with ⟨q, n, w, b, ac, dp, -, e⟩ | ⟨n, o, p, c, v, r, -, -, e⟩
  · have hs : s.decodeStep a = s.goOn q n w b ac dp := e s
    have hs' : s'.decodeStep a = s'.goOn q n w b ac dp := hdec ▸ e s'
    rw [hs, hs']
    exact ⟨congrArg (State.goOn · q n w b ac dp) hdec, hres⟩
  · have hs : s.decodeStep a = s.finishAt n o p c v r := e s
    have hs' : s'.decodeStep a = s'.finishAt n o p c v r := hdec ▸ e s'
    have hkept : (s.finishAt n o p c v r).decoderOn ((s.decoderOn s').finishAt n o p c v r) =
        (s.decoderOn s').finishAt n o p c v r := by cases o <;> rfl
    rw [hs, hs']
    refine ⟨hdec ▸ hkept, ?_⟩
    cases o <;> exact ⟨rfl, rfl, rfl, rfl, rfl⟩

theorem State.Alike.passes {acts : List Bool} (h : s.Alike s') (hp : s.Passes acts u) :
    ∃ u', s'.Passes acts u' ∧ u.Alike u' := by
  induction acts generalizing s s' with
  | nil =>
    obtain rfl : s = u := hp.last
    exact ⟨s', .nil s', h⟩
  | cons a as ih =>
    obtain ⟨hd, hp⟩ := hp.of_cons
    obtain ⟨u', hp', hu⟩ := ih (h.clearDone.decodeStep hd a) hp
    exact ⟨u', .cons (by rw [h.st_eq]; exact hd) hp', hu⟩

/-- A decoder that is in `IDLE` after reading at least one sample has just completed a DECODE. -/
theorem State.Passes.completed {acts : List Bool} (h : s.Passes acts u) (hs : s.st.isDecoder = true)
    (hu : u.st = .idle) : u.done = true ∧ u.doneOp = .decode := by
  induction acts generalizing s with
  | nil =>
    obtain rfl : s = u := h.last
    exact absurd hu (Seq.ne_idle_of_isDecoder hs)
  | cons a as ih =>
    obtain ⟨-, hp⟩ := h.of_cons
    rcases s.clearDone.decodeStep_completes_or_goes_on a hs with ⟨hdone, hst, hop⟩ | ⟨-, hgoes, -⟩
    · cases as with
      | nil =>
        obtain rfl := hp.last
        exact ⟨hdone, hop⟩
      | cons b bs =>
        have := hp.of_cons.1
        rw [hst] at this
        cases this
    · exact ih hp hgoes

end

/-! ### The obligations on the sample stream -/

/-- With the budget left, a decode is in a wait state after each sample of the wait. -/
theorem State.startDecode_run_wait {s : State} {T : Word} {a b : Nat} {more : List Bool}
    (hl : s.sync.length = s.cfg.syncStages) (h : a + b ≤ T.toNat)
    (hs : (s.startDecode false T).Sees (waitRuns a b ++ more)) :
    ∃ u, core.run (a + b) (s.startDecode false T) = .next u ∧ (u.st = .dWaitIdle ∨ u.st = .dWaitMark) := by
  rcases Nat.eq_zero_or_pos (a + b) with hz | hpos
  · exact ⟨s.startDecode false T, by rw [hz, run_zero], .inl rfl⟩
  · have hne : waitRuns a b ≠ [] := List.ne_nil_of_length_pos (by rwa [length_waitRuns])
    have hp : (s.startDecode false T).Passes _ _ := .of_clearDone (State.waiting_passes_waitRuns h) hne
    obtain ⟨sy, inp, nw, hrun, -⟩ := hp.run hl hs
    rw [length_waitRuns] at hrun
    exact ⟨_, hrun, waitState_or b⟩

/-- The wait of `T` samples, and the sample that finds the budget used up. -/
theorem State.startDecode_ends_in_timeout {s : State} {T : Word} {a b : Nat} {x : Bool}
    (hl : s.sync.length = s.cfg.syncStages) (h : a + b = T.toNat)
    (hs : (s.startDecode false T).Sees (waitRuns a b ++ [x])) :
    ∃ u, (s.startDecode false T).DecodeEnds (T.toNat + 1) u ∧ u.Failed .timeout := by
  have hlen : (waitRuns a b ++ [x]).length = T.toNat + 1 := by simp [h]
  rw [← hlen]
  exact (State.startDecode_passes_timeout h x).decodeEnds_result hl hs

/-- Settles O50: `waiting` follows the wait sample by sample, and no measuring state reads the budget. -/
theorem overallTimeoutBoundsOnlyTheWait : Obligations.OverallTimeoutBoundsOnlyTheWait := by
  unfold Obligations.OverallTimeoutBoundsOnlyTheWait
  refine ⟨fun s t T a b ho hl he => ?_, fun s t x y z hm hr hstep => ?_⟩
  · obtain rfl := exec_dec he
    refine ⟨fun hb hT hsees => ⟨?_, fun k hk => ?_⟩, fun x hT hsees => State.startDecode_ends_in_timeout hl hT hsees⟩
    · have hstart := State.startDecode_passes_header (n := 1) (rest := []) ho hb hT le_rfl (.nil _)
      obtain ⟨sy, inp, nw, hrun, -⟩ := hstart.run (more := []) hl (by simpa [actRun] using hsees)
      have hlen : (waitRuns a b ++ (actRun 1 ++ [])).length = a + b + 1 := by simp [actRun]
      rw [hlen] at hrun
      exact ⟨_, hrun, rfl, rfl⟩
    · obtain ⟨a', b', rest, hsplit, rfl⟩ := waitRuns_split hk
      rw [hsplit, List.append_assoc] at hsees
      exact State.startDecode_run_wait hl (by omega) hsees
  · have hd : s.st.isDecoder = true := by
      cases hs : s.st.counts with
      | none => exact absurd hs hm
      | some L => exact Seq.isDecoder_of_counts hs
    obtain rfl : s.begun.decodeStep s.seen = t := by simpa [step_of_decode hr hd] using hstep
    exact step_of_decodeStep_eq (s := { s with tmo := x, wcnt := y, inf := z }) hr hd rfl
      (State.decodeStep_withBudget (u := s.begun) hm x y z s.seen)

/-- Settles O52: the four runs one after another. -/
theorem repeatCodeIsDetected : Obligations.RepeatCodeIsDetected := by
  unfold Obligations.RepeatCodeIsDetected
  intro s t T k hm rs tl ho hl he hk hT hhm hrs htl htl' hsees
  obtain rfl := exec_dec he
  obtain ⟨hm1, -⟩ := ho.holds_range (by simp [Config.windows]) hhm
  obtain ⟨hrs1, -⟩ := ho.holds_range (by simp [Config.windows]) hrs
  have hcfg : (s.waiting T .dWaitMark (0 + k + 1)).cfg.Ok := ho
  have hp : (s.startDecode false T).Passes (idleRun k ++ (actRun hm ++ (idleRun rs ++ (actRun tl ++ [false])))) _ :=
    State.startDecode_passes_header (a := 0) ho hk (by omega) hm1 <|
      State.inRun_passes_hdrMark_long hcfg rfl hhm (head?_replicate_append hrs1 _) <|
        State.inRun_passes_lfHdrSpace_rpt hcfg rfl hrs (head?_replicate_append htl _) <|
          State.inRun_passes_lfRptTrail hcfg rfl htl htl'
  have hlen : (idleRun k ++ (actRun hm ++ (idleRun rs ++ (actRun tl ++ [false])))).length = k + hm + rs + tl + 1 := by
    simp [actRun, idleRun, Nat.add_assoc]
  rw [← hlen]
  exact hp.decodeEnds_result hl (by simpa using hsees)

/-- Settles O55: the marks' bits follow from their windows, and each of the three ends is one of R183's. -/
theorem variableFrameEndsAtItsBlocks : Obligations.VariableFrameEndsAtItsBlocks := by
  unfold Obligations.VariableFrameEndsAtItsBlocks
  intro s hm hs n m g v hinv hst hcnt hhm hhs hmarks hspaces hv
  have ho := hinv.cfgOk
  have hd : s.done = false := hinv.done_eq_false (by simp [hst])
  have hstart := hinv.inRun_hdrMark hst hcnt
  have hbits : ∀ i < n, i < 32 → BitOf s.cfg.wVfMark0 s.cfg.wVfMark1 (m i) (v.getLsbD i) := fun i hi hi' => by
    have hvi : v.getLsbD i = !s.cfg.wVfMark0.holds (m i) := by simpa [hi] using hv i hi'
    exact hvi ▸ BitOf.of_holds (hmarks i hi)
  have hall : lowBits v n = v := lowBits_eq_self fun i hi hn => by simpa [Nat.not_lt.2 hn] using hv i hi
  refine ⟨?_, ?_, ?_⟩ <;> rintro rfl hsees
  · obtain ⟨w, hp⟩ := State.inRun_passes_variableBlocks (d := s.dproto) (k := 11) ho hd hhm hhs (.inl rfl)
      (fun i hi => hbits i (by omega) (by omega)) (fun i h1 hi => hspaces i h1 (by omega))
    rw [hstart, hall] at hp
    exact hp.decodeEnds_variableFrame hinv.syncLen hsees
  · obtain ⟨w, hp⟩ := State.inRun_passes_variableBlocks (d := s.dproto) (k := 14) ho hd hhm hhs (.inr rfl)
      (fun i hi => hbits i (by omega) (by omega)) (fun i h1 hi => hspaces i h1 (by omega))
    rw [hstart, hall] at hp
    exact hp.decodeEnds_variableFrame hinv.syncLen hsees
  · have hp := State.inRun_passes_twentyBits (d := s.dproto) ho hd hhm hhs
      (fun i hi => hbits i (by omega) (by omega)) (fun i h1 hi => hspaces i h1 (by omega))
    rw [hstart, hall] at hp
    exact hp.decodeEnds_variableFrame (j := 1) hinv.syncLen hsees

/-- Settles O56: the envelopes are runs in the windows of their symbols. -/
theorem loopbackRoundTrips : Obligations.LoopbackRoundTrips := by
  unfold Obligations.LoopbackRoundTrips
  intro s t T k tail p ho hloop hl he hk hT
  obtain rfl := exec_dec he
  have ⟨_, _, _, _, _, _, _, _, ⟨hH, _⟩, _⟩ := ho
  refine ⟨fun hsees => ?_, fun htail hsees => ?_⟩
  · obtain ⟨w, hp⟩ := State.startDecode_passes_longRuns ho hloop hk hT p
    exact hp.decodeEnds_envelope (envLf_eq_runs s.cfg p) (by omega) hl hsees
  · obtain ⟨w, hp⟩ := State.startDecode_passes_variableRuns ho hloop hk hT p
    exact hp.decodeEnds_envelope (envVf_eq_runs s.cfg p) (by omega) hl hsees

/-- Settles O59: what the decoder reads agrees in the two states from acceptance on. -/
theorem decodesDependOnlyOnTheirSamples : Obligations.DecodesDependOnlyOnTheirSamples := by
  unfold Obligations.DecodesDependOnlyOnTheirSamples
  intro s s' t t' u i acts hi hcfg hl hl' he he' hsees hsees' hends
  obtain ⟨md, T, rfl, rfl⟩ : ∃ md T, t = s.startDecode md T ∧ t' = s'.startDecode md T := by
    cases i with
    | dec T => cases he; cases he'; exact ⟨false, T, rfl, rfl⟩
    | decInf T => cases he; cases he'; exact ⟨true, T, rfl, rfl⟩
    | nop => cases hi
    | txLf p => cases hi
    | txVf p => cases hi
    | rsvd => cases hi
  obtain ⟨x, sy, inp, nw, hp, rfl⟩ := hends.passes hl hsees
  obtain ⟨x', hp', halike⟩ := (State.Alike.startDecode hcfg md T).passes hp
  have hidle : x'.st = .idle := halike.st_eq.trans hends.idle
  obtain ⟨hdone, hop⟩ := hp'.completed rfl hidle
  obtain ⟨sy', inp', nw', hends'⟩ := hp'.decodeEnds hl' hsees' hidle hdone hop
  exact ⟨_, hends', halike.result⟩

/-- Settles O57: a quiet line of `T + 1` samples is a wait of `T` and one more, and a header mark in neither window ends its run. -/
theorem noHeaderFails : Obligations.NoHeaderFails := by
  unfold Obligations.NoHeaderFails
  intro s t T a b ho hl he
  obtain rfl := exec_dec he
  refine ⟨fun hT hsees => ?_, fun n hb hT h1 hn hlong hvar hsees => ?_⟩
  · obtain ⟨a', b', rest, hsplit, hsum⟩ := waitRuns_split (a := a) (b := b) (k := T.toNat) (by omega)
    have hlen := congrArg List.length hsplit
    rw [List.length_append, length_waitRuns, length_waitRuns] at hlen
    obtain ⟨x, rfl⟩ : ∃ x, rest = [x] := List.length_eq_one_iff.1 (by omega)
    exact State.startDecode_ends_in_timeout hl hsum (hsplit ▸ hsees)
  · have hcfg : (s.waiting T .dWaitMark (a + b + 1)).cfg.Ok := ho
    have hp := State.startDecode_passes_header ho hb hT h1 (State.inRun_passes_hdrMark_error hcfg rfl h1 hn hlong hvar)
    have hlen : (waitRuns a b ++ (actRun n ++ [false])).length = a + b + n + 1 := by
      simp [actRun, Nat.add_assoc]
    rw [← hlen]
    exact hp.decodeEnds_result hl (by simpa using hsees)

/-- Settles O58: the registers of `waiting` are fixed by `T`, and the TIMEOUT that ends the wait writes none of them. -/
theorem idleLineDecodesAreIndependent : Obligations.IdleLineDecodesAreIndependent := by
  unfold Obligations.IdleLineDecodesAreIndependent
  intro s t T hl he hsees
  obtain rfl := exec_dec he
  have hidle : idleRun (T.toNat + 1) = waitRuns 0 T.toNat ++ [false] := List.replicate_succ'
  have hlen : (waitRuns 0 T.toNat ++ [false]).length = T.toNat + 1 := by simp
  have hp := State.startDecode_passes_timeout (s := s) (T := T) (a := 0) (Nat.zero_add _) false
  obtain ⟨sy, inp, nw, hends⟩ := hp.decodeEnds hl (hidle ▸ hsees) rfl rfl rfl
  rw [hlen] at hends
  exact ⟨_, hends, rfl, ⟨rfl, rfl, rfl, rfl, rfl⟩, rfl, rfl, rfl, rfl, rfl, BitVec.ofNat_toNat .., rfl⟩

end Sys2Proof.Machine
end

section
/-! PROOFS. Family 60_exceptions: the fifteen causes of a failed decode (spec/60_exceptions.md R221). Each cause has its
outcome, and an edge that completes a decode without SUCCESS meets a cause; since the two outcomes differ, the causes of
one exclude the other's. -/

namespace Sys2Proof.Machine

/-! ### The causes -/

/-- One of the ten TIMEOUT causes of R221, at an edge whose sample is `a`. -/
def State.TimeoutCause (s : State) (a : Bool) : Prop :=
  ((s.st = .dWaitIdle ∨ s.st = .dWaitMark) ∧ s.inf = false ∧ s.tmo ≤ s.wcnt) ∨
  ((s.st = .dHdrMark ∨ s.st = .dLfRptTrail ∨ s.st = .dLfMark ∨ s.st = .dLfTrail ∨ s.st = .dVfMark) ∧
    a = true ∧ s.cfg.symLimit ≤ s.cnt + 1) ∨
  ((s.st = .dLfHdrSpace ∨ s.st = .dLfSpace ∨ s.st = .dVfHdrSpace ∨
      (s.st = .dVfSpace ∧ s.bidx ≠ 12 ∧ s.bidx ≠ 15)) ∧
    a = false ∧ s.cfg.symLimit ≤ s.cnt + 1)

/-- One of the five PROTOCOL_ERROR causes of R221, at an edge whose sample is `a`. -/
def State.ProtocolErrorCause (s : State) (a : Bool) : Prop :=
  (s.st = .dHdrMark ∧ a = false ∧ s.cfg.wLfHdrMark.holds s.cnt = false ∧ s.cfg.wVfHdrMark.holds s.cnt = false) ∨
  (s.st = .dLfHdrSpace ∧ a = true ∧ s.cfg.wLfHdrSpace.holds s.cnt = false ∧ s.cfg.wLfRptSpace.holds s.cnt = false) ∨
  (s.st = .dLfSpace ∧ a = true ∧ s.cfg.wLfSpace0.holds s.cnt = false ∧ s.cfg.wLfSpace1.holds s.cnt = false) ∨
  (s.st = .dVfHdrSpace ∧ a = true ∧ s.cfg.wVfHdrSpace.holds s.cnt = false) ∨
  (s.st = .dVfMark ∧ a = false ∧ s.cfg.wVfMark0.holds s.cnt = false ∧ s.cfg.wVfMark1.holds s.cnt = false)

/-- A block boundary, where reaching the limit ends the frame (spec/43_decoder.md R182). -/
abbrev State.AtBlockEnd (s : State) : Prop := s.st = .dVfSpace ∧ (s.bidx = 12 ∨ s.bidx = 15)

theorem State.limit_of_not_atBlockEnd {s : State} (h : ¬ s.AtBlockEnd) : s.limit = s.cfg.symLimit := by
  have h12 : ¬ (s.st = .dVfSpace ∧ s.bidx = 12) := fun ⟨hs, hb⟩ => h ⟨hs, .inl hb⟩
  have h15 : ¬ (s.st = .dVfSpace ∧ s.bidx = 15) := fun ⟨hs, hb⟩ => h ⟨hs, .inr hb⟩
  rw [State.limit, if_neg h12, if_neg h15]

/-- The TIMEOUT causes in two parts: the wait's budget, and the limit of a run that goes on (R163, R125). -/
theorem State.timeoutCause_iff (s : State) (a : Bool) :
    s.TimeoutCause a ↔ ((s.st = .dWaitIdle ∨ s.st = .dWaitMark) ∧ s.waitElapsed = true) ∨
      (¬ s.AtBlockEnd ∧ s.st.counts = some a ∧ s.limit ≤ s.cnt + 1) := by
  have hlimit : (¬ s.AtBlockEnd ∧ s.st.counts = some a ∧ s.limit ≤ s.cnt + 1) ↔
      (¬ s.AtBlockEnd ∧ s.st.counts = some a ∧ s.cfg.symLimit ≤ s.cnt + 1) :=
    and_congr_right fun hb => by rw [State.limit_of_not_atBlockEnd hb]
  rw [s.waitElapsed_eq_true_iff, hlimit, State.TimeoutCause, State.AtBlockEnd]
  cases s.st <;> simp [Seq.counts, eq_comm (a := true) (b := a), eq_comm (a := false) (b := a)]

/-! ### A cause has its outcome -/

theorem State.TimeoutCause.decodeStep_eq {s : State} {a : Bool} (h : s.TimeoutCause a) :
    s.decodeStep a = s.endedFailed .timeout := by
  rcases (s.timeoutCause_iff a).1 h with ⟨hs, helapsed⟩ | ⟨hb, hL, hlim⟩
  · exact State.decodeStep_of_waitElapsed hs helapsed a
  · exact State.decodeStep_limit hL hlim hb

theorem State.ProtocolErrorCause.decodeStep_eq {s : State} {a : Bool} (h : s.ProtocolErrorCause a) :
    s.decodeStep a = (s.count (.ended s.cnt)).endedFailed .protocolError := by
  rcases h with ⟨hs, rfl, h, h'⟩ | ⟨hs, rfl, h, h'⟩ | ⟨hs, rfl, h, h'⟩ | ⟨hs, rfl, h⟩ | ⟨hs, rfl, h, h'⟩
  · simp [State.decodeStep, hs, State.stepHdrMark, measured, Config.hdrMarkWindows, classify_two_of_none h h',
      State.finishProtocolError_eq]
  · simp [State.decodeStep, hs, State.stepLfHdrSpace, measured, Config.lfHdrSpaceWindows, classify_two_of_none h h',
      State.finishProtocolError_eq]
  · simp [State.decodeStep, hs, State.stepLfSpace, measured, Config.lfSpaceWindows, classify_two_of_none h h',
      State.finishProtocolError_eq]
  · simp [State.decodeStep, hs, State.stepVfHdrSpace, measured, Config.vfHdrSpaceWindows, classify_one, h,
      State.finishProtocolError_eq]
  · simp [State.decodeStep, hs, State.stepVfMark, measured, Config.vfMarkWindows, classify_two_of_none h h',
      State.finishProtocolError_eq]

/-! ### A failure has a cause -/

theorem exists_classify_two {σ : Type} {n : Nat} {w w' : Window} (h : ¬ (w.holds n = false ∧ w'.holds n = false))
    (x y : σ) : ∃ z, classify n [(w, x), (w', y)] = some z := by
  cases hw : w.holds n with
  | true => exact ⟨x, classify_cons_of_holds hw _ _⟩
  | false => exact ⟨y, classify_two_of_second hw (Bool.eq_true_of_not_eq_false fun hw' => h ⟨hw, hw'⟩) _ _⟩

/-- The state after an edge that completes no decode, or completes it with SUCCESS. -/
def State.NotFailed (t : State) : Prop := t.done = true → t.resOutcome = .success

theorem State.NotFailed.of_not_done {t : State} (h : t.done = false) : t.NotFailed := fun hdone => by simp [h] at hdone

theorem State.NotFailed.of_success {t : State} (h : t.resOutcome = .success) : t.NotFailed := fun _ => h

section
variable {s : State} {a : Bool} (hdone : s.done = false)
include hdone

theorem State.notFailed_of_budget_left (hs : s.st = .dWaitIdle ∨ s.st = .dWaitMark) (h : s.waitElapsed = false) :
    (s.decodeStep a).NotFailed := by
  apply State.NotFailed.of_not_done
  rcases hs with hs | hs <;> cases a
  · simp [State.decodeStep_waitIdle_idle hs h, hdone]
  · simp [State.decodeStep_waitIdle_active hs h, hdone]
  · simp [State.decodeStep_waitMark_idle hs h, hdone]
  · simp [State.decodeStep_waitMark_active hs h, hdone]

/-- A run that goes on fails only at its limit, and not at a block boundary. -/
theorem State.notFailed_of_run_goes_on (hL : s.st.counts = some a) (h : s.limit ≤ s.cnt + 1 → s.AtBlockEnd) :
    (s.decodeStep a).NotFailed := by
  by_cases hlim : s.limit ≤ s.cnt + 1
  · obtain ⟨hs, hb⟩ := h hlim
    obtain rfl : false = a := by simpa [hs, Seq.counts] using hL
    rw [State.decodeStep_blockEnd hs hb hlim]
    exact .of_success rfl
  · rw [State.decodeStep_cont hL (by omega)]
    exact .of_not_done hdone

/-- A run that ends fails only where its length is in no window of its state. -/
theorem State.notFailed_of_run_ends {L : Bool} (hL : s.st.counts = some L) (h : ¬ s.ProtocolErrorCause (!L)) :
    (s.decodeStep (!L)).NotFailed := by
  cases hs : s.st <;> rw [hs] at hL <;> simp only [Seq.counts, reduceCtorEq, Option.some.injEq] at hL <;> subst hL
  case dHdrMark =>
    obtain ⟨p, hp⟩ := exists_classify_two (fun hw => h (.inl ⟨hs, rfl, hw⟩)) Protocol.longFrame .variableFrame
    cases p <;>
      exact .of_not_done (by simp [State.decodeStep, hs, State.stepHdrMark, measured, Config.hdrMarkWindows, hp, hdone])
  case dLfHdrSpace =>
    obtain ⟨k, hk⟩ := exists_classify_two (fun hw => h (.inr (.inl ⟨hs, rfl, hw⟩))) LfHeader.data .rpt
    cases k <;>
      exact .of_not_done
        (by simp [State.decodeStep, hs, State.stepLfHdrSpace, measured, Config.lfHdrSpaceWindows, hk, hdone])
  case dLfRptTrail => exact .of_success (by simp [State.decodeStep, hs, State.stepLfRptTrail, measured, State.finish])
  case dLfMark => exact .of_not_done (by simp [State.decodeStep, hs, State.stepLfMark, measured, hdone])
  case dLfSpace =>
    obtain ⟨b, hb⟩ := exists_classify_two (fun hw => h (.inr (.inr (.inl ⟨hs, rfl, hw⟩)))) false true
    simp only [State.decodeStep, hs, State.stepLfSpace, measured, Bool.not_false, Bool.true_eq_false, if_false,
      Config.lfSpaceWindows, hb]
    split_ifs
    · exact .of_not_done hdone
    · exact .of_not_done hdone
  case dLfTrail => exact .of_success (by simp [State.decodeStep, hs, State.stepLfTrail, measured, State.finish])
  case dVfHdrSpace =>
    have hw : s.cfg.wVfHdrSpace.holds s.cnt = true :=
      Bool.eq_true_of_not_eq_false fun hw => h (.inr (.inr (.inr (.inl ⟨hs, rfl, hw⟩))))
    have hk := classify_cons_of_holds hw () []
    exact .of_not_done
      (by simp [State.decodeStep, hs, State.stepVfHdrSpace, measured, Config.vfHdrSpaceWindows, hk, hdone])
  case dVfMark =>
    obtain ⟨b, hb⟩ := exists_classify_two (fun hw => h (.inr (.inr (.inr (.inr ⟨hs, rfl, hw⟩))))) false true
    simp only [State.decodeStep, hs, State.stepVfMark, measured, Bool.not_true, Bool.false_eq_true, if_false,
      Config.vfMarkWindows, hb]
    split_ifs
    · exact .of_success rfl
    · exact .of_not_done hdone
  case dVfSpace => exact .of_not_done (by simp [State.decodeStep, hs, State.stepVfSpace, measured, hdone])

/-- An edge that meets no cause of R221 goes on or ends in SUCCESS. -/
theorem State.notFailed_of_no_cause (hd : s.st.isDecoder = true) (hT : ¬ s.TimeoutCause a)
    (hP : ¬ s.ProtocolErrorCause a) : (s.decodeStep a).NotFailed := by
  rw [s.timeoutCause_iff, not_or] at hT
  obtain ⟨hbudget, hlimit⟩ := hT
  cases hL : s.st.counts with
  | none =>
    have hs : s.st = .dWaitIdle ∨ s.st = .dWaitMark := by
      cases hs : s.st <;> simp_all [Seq.isDecoder, Seq.counts]
    exact State.notFailed_of_budget_left hdone hs (Bool.eq_false_iff.2 fun h => hbudget ⟨hs, h⟩)
  | some L =>
    rcases Bool.eq_or_eq_not a L with rfl | rfl
    · exact State.notFailed_of_run_goes_on hdone hL fun hlim => by_contra fun hb => hlimit ⟨hb, hL, hlim⟩
    · exact State.notFailed_of_run_ends hdone hL hP

end

/-! ### The obligation -/

theorem State.failed_endedFailed (u : State) (o : ResOutcome) : (u.endedFailed o).Failed o :=
  ⟨rfl, rfl, rfl, rfl, rfl⟩

theorem State.failed_endedFailed_iff (u : State) (o o' : ResOutcome) :
    (u.endedFailed o).Failed o' ∧ (u.endedFailed o).done = true ↔ o = o' :=
  ⟨fun ⟨⟨hout, _⟩, _⟩ => hout, fun h => h ▸ ⟨u.failed_endedFailed o, rfl⟩⟩

theorem State.NotFailed.not_failed {t : State} {o : ResOutcome} (h : t.NotFailed) (ho : o ≠ .success) :
    ¬ (t.Failed o ∧ t.done = true) := fun ⟨⟨hout, _⟩, hdone⟩ => ho (hout.symm.trans (h hdone))

/-- The causes of the two outcomes exclude each other, as one edge has one outcome. -/
theorem State.TimeoutCause.not_protocolErrorCause {s : State} {a : Bool} (hT : s.TimeoutCause a) :
    ¬ s.ProtocolErrorCause a := fun hP =>
  absurd (congrArg State.resOutcome (hT.decodeStep_eq.symm.trans hP.decodeStep_eq))
    (by simp [State.endedFailed, State.ended])

/-- Settles O47: a cause fixes the outcome of its edge, and an edge without a cause does not fail. -/
theorem failuresHaveTheListedCauses : Obligations.FailuresHaveTheListedCauses := by
  unfold Obligations.FailuresHaveTheListedCauses
  intro s t h hr hd
  obtain rfl : s.begun.decodeStep s.seen = t := by simpa [step_of_decode hr hd] using h
  change (_ ↔ s.begun.TimeoutCause s.seen) ∧ (_ ↔ s.begun.ProtocolErrorCause s.seen) ∧ _
  by_cases hT : s.begun.TimeoutCause s.seen
  · rw [hT.decodeStep_eq, State.failed_endedFailed_iff, State.failed_endedFailed_iff]
    exact ⟨by simp [hT], by simp [hT.not_protocolErrorCause], fun _ _ => State.failed_endedFailed _ _⟩
  by_cases hP : s.begun.ProtocolErrorCause s.seen
  · rw [hP.decodeStep_eq, State.failed_endedFailed_iff, State.failed_endedFailed_iff]
    exact ⟨by simp [hT], by simp [hP], fun _ _ => State.failed_endedFailed _ _⟩
  · have hnot := State.notFailed_of_no_cause (s := s.begun) rfl hd hT hP
    exact ⟨iff_of_false (hnot.not_failed (by decide)) hT, iff_of_false (hnot.not_failed (by decide)) hP,
      fun hdone hns => absurd (hnot hdone) hns⟩

end Sys2Proof.Machine
end

section
/-! PROOFS. Family 30_encoding, what is left of it: a word's command by its fields (spec/30_encoding.md R70 to R74), the bits
a command reads, and the codes at the ports (R75 to R77). -/

namespace Sys2Proof

/-! ### The command that the fields select -/

/-- The command of an operation, a `mod` bit and an `arg` (R71, R72, R78). -/
def Instr.ofFields (op : Op) (md : BitVec 1) (a : Word) : Instr :=
  match op with
  | .nop => .nop
  | .transmit => if md = 0#1 then .txLf a else .txVf a
  | .decode => if md = 0#1 then .dec a else .decInf a
  | .reserved => .rsvd

theorem decode_eq_ofFields (w : CmdWord) :
    decode w = Instr.ofFields (Op.ofCode (opField w)) (modField w) (argField w) := by
  unfold decode Instr.ofFields
  cases Op.ofCode (opField w) <;> rfl

theorem decode_packWord (op : BitVec 2) (md : BitVec 1) (rs : BitVec 5) (a : Word) :
    decode (packWord op md rs a) = Instr.ofFields (Op.ofCode op) md a := by
  rw [decode_eq_ofFields, opField_packWord, modField_packWord, argField_packWord]

/-- A command is the one that its own fields select. -/
theorem Instr.ofFields_self (i : Instr) : Instr.ofFields i.op i.mod i.arg = i := by
  cases i <;> rfl

theorem Op.ofCode_eq_iff (b : BitVec 2) (o : Op) : Op.ofCode b = o ↔ b = o.code := by
  revert b
  cases o <;> decide

/-- NOP and RSVD are selected by `op` alone (R74). -/
theorem Instr.ofFields_of_no_operand {op : Op} (h : op = .nop ∨ op = .reserved) (md md' : BitVec 1) (a a' : Word) :
    Instr.ofFields op md a = Instr.ofFields op md' a' := by
  rcases h with rfl | rfl <;> rfl

theorem Instr.ofFields_eq_iff_of_no_operand {op : Op} {md : BitVec 1} {a : Word} {i : Instr} (h : i = .nop ∨ i = .rsvd) :
    Instr.ofFields op md a = i ↔ op = i.op := by
  have hmod : md = 0#1 ∨ md = 1#1 := by revert md; decide
  rcases h with rfl | rfl <;> cases op <;> rcases hmod with rfl | rfl <;> simp [Instr.ofFields, Instr.op]

/-- The commands with an operand are those that read the whole `arg` field. -/
theorem Instr.ofFields_eq_iff_of_operand {op : Op} {md : BitVec 1} {a : Word} {i : Instr}
    (h : i.readMask = 0xFFFFFFFF07#40) : Instr.ofFields op md a = i ↔ op = i.op ∧ md = i.mod ∧ a = i.arg := by
  have hmod : md = 0#1 ∨ md = 1#1 := by revert md; decide
  cases i with
  | nop | rsvd => exact absurd h (by decide)
  | txLf p | txVf p | dec p | decInf p =>
    cases op <;> rcases hmod with rfl | rfl <;> simp [Instr.ofFields, Instr.op, Instr.mod, Instr.arg]

/-! ### The bits a command reads -/

theorem and_operandMask (w : CmdWord) :
    w &&& 0xFFFFFFFF07#40 = packWord (opField w) (modField w) 0#5 (argField w) := by
  have hmask : 0xFFFFFFFF07#40 = packWord (BitVec.allOnes 2) (BitVec.allOnes 1) 0#5 (BitVec.allOnes 32) := by decide
  conv_lhs => rw [← packWord_fields w, hmask, packWord_and]
  simp only [BitVec.and_allOnes, BitVec.and_zero]

/-- A command without operand reads `op` only. -/
theorem and_readMask_of_no_operand (w : CmdWord) {i : Instr} (h : i = .nop ∨ i = .rsvd) :
    w &&& i.readMask = encode i ↔ opField w = i.op.code := by
  rcases h with rfl | rfl <;> simp [Instr.readMask, encode, and_opMask, packWord_inj, Instr.mod, Instr.arg]

/-- A command with an operand reads every field but the reserved one. -/
theorem and_readMask_of_operand (w : CmdWord) {i : Instr} (h : i.readMask = 0xFFFFFFFF07#40) :
    w &&& i.readMask = encode i ↔ opField w = i.op.code ∧ modField w = i.mod ∧ argField w = i.arg := by
  simp [h, encode, and_operandMask, packWord_inj]

/-! ### The obligations -/

/-- Settles O1: the fields of the packed word are the command's own, and they select it. -/
theorem decodeOfEncodeIsTheCommand : Obligations.DecodeOfEncodeIsTheCommand := by
  unfold Obligations.DecodeOfEncodeIsTheCommand
  intro i
  refine ⟨?_, opField_packWord .., modField_packWord .., rsvdField_packWord .., argField_packWord ..⟩
  rw [encode, decode_packWord, Op.ofCode_code, i.ofFields_self]

/-- Settles O2: both sides say that the fields which the command reads are its own. -/
theorem wordMeansCommandOnItsReadBits : Obligations.WordMeansCommandOnItsReadBits := by
  unfold Obligations.WordMeansCommandOnItsReadBits
  intro w i
  rw [decode_eq_ofFields]
  cases i with
  | nop => rw [Instr.ofFields_eq_iff_of_no_operand (.inl rfl), and_readMask_of_no_operand w (.inl rfl), Op.ofCode_eq_iff]
  | rsvd => rw [Instr.ofFields_eq_iff_of_no_operand (.inr rfl), and_readMask_of_no_operand w (.inr rfl), Op.ofCode_eq_iff]
  | txLf p | txVf p | dec p | decInf p =>
    rw [Instr.ofFields_eq_iff_of_operand rfl, and_readMask_of_operand w rfl, Op.ofCode_eq_iff]

/-- Settles O4: the command does not depend on the reserved field, and that of NOP and RSVD on `op` only. -/
theorem ignoredBitsChangeNoCommand : Obligations.IgnoredBitsChangeNoCommand := by
  unfold Obligations.IgnoredBitsChangeNoCommand
  intro op md md' r r' a a'
  simp only [decode_packWord, true_and]
  intro hop
  refine Instr.ofFields_of_no_operand ?_ md md' a a'
  rcases hop with rfl | rfl
  · exact .inl rfl
  · exact .inr rfl

/-- Settles O6, by evaluating the decoder on the seven words. -/
theorem writtenWordsDecode : Obligations.WrittenWordsDecode := by
  unfold Obligations.WrittenWordsDecode
  decide

namespace Machine

/-- Settles O8: no two values share a code, and the other ports are the registers themselves. -/
theorem outcomeCodesAtThePort : Obligations.OutcomeCodesAtThePort := by
  unfold Obligations.OutcomeCodesAtThePort
  intro s rst
  have houtcome : ∀ o o' : ResOutcome, o.code = o'.code ↔ o = o' := by
    intro o o'
    cases o <;> cases o' <;> decide
  have hprotocol : ∀ p p' : Protocol, p.code = p'.code ↔ p = p' := by
    intro p p'
    cases p <;> cases p' <;> decide
  have hop : ∀ o o' : Op, o.code = o'.code ↔ o = o' := fun o o' =>
    ⟨fun h => by rw [← o.ofCode_code, h, o'.ofCode_code], fun h => h ▸ rfl⟩
  exact ⟨houtcome _ .none, houtcome _ .success, houtcome _ .timeout, houtcome _ .protocolError,
    hprotocol _ .longFrame, hprotocol _ .variableFrame, hop _ .nop, hop _ .transmit, hop _ .decode, hop _ .reserved,
    rfl, rfl, rfl, rfl, rfl, rfl⟩

end Machine

end Sys2Proof
end

section
/-! PROOFS. Families 00_scope, 10_state, 20_memory, 40_commands and 42_encoder, one edge at a time: what accepts and reads a
command (spec/40_commands.md R100, R101), what every edge does to the configuration and the plumbing (spec/00_scope.md R7,
spec/10_state.md R23), and which edges write the result registers (R30). -/

namespace Sys2Proof.Machine

/-! ### What every edge does, whichever arm it runs -/

/-- Every edge shifts the synchroniser, uses up its inputs and keeps the configuration. -/
theorem step_plumbing {s t : State} (h : step s = .next t) :
    t.cfg = s.cfg ∧ t.sync = s.begun.sync ∧ t.inputs = s.begun.inputs := by
  rcases step_cases h with ⟨-, rfl⟩ | ⟨-, -, -, he⟩ | ⟨-, -, -, rfl⟩ | ⟨-, -, rfl⟩ | ⟨-, -, rfl⟩
  · exact ⟨rfl, rfl, rfl⟩
  · rcases exec_cases he with ⟨-, rfl⟩ | ⟨-, rfl⟩ | ⟨_, -, rfl⟩ | ⟨_, -, rfl⟩ | ⟨_, -, rfl⟩ | ⟨_, -, rfl⟩ <;>
      exact ⟨rfl, rfl, rfl⟩
  · exact ⟨rfl, rfl, rfl⟩
  · simp
  · simp

/-- A decoder state waits or measures (spec/10_state.md R25). -/
theorem Seq.waits_or_counts {q : Seq} (h : q.isDecoder = true) : (q = .dWaitIdle ∨ q = .dWaitMark) ∨ q.counts ≠ none := by
  cases q <;> simp_all [Seq.isDecoder, Seq.counts]

/-! ### The result registers -/

/-- `t` holds the result registers of `s`. -/
abbrev State.SameResult (s t : State) : Prop :=
  t.Result s.resOutcome s.resProtocol s.resBitCount s.resPayload s.resIsRepeat

/-- The acceptance of a DECODE clears the result registers, that of every other command keeps them
(spec/43_decoder.md R160, spec/20_memory.md R56). -/
theorem exec_result {i : Instr} {s t : State} (h : exec i s = .next t) :
    (i.op = .decode ∧ t.Failed .none) ∨ (i.op ≠ .decode ∧ s.SameResult t) := by
  rcases exec_cases h with ⟨rfl, rfl⟩ | ⟨rfl, rfl⟩ | ⟨_, rfl, rfl⟩ | ⟨_, rfl, rfl⟩ | ⟨_, rfl, rfl⟩ | ⟨_, rfl, rfl⟩
  case inr.inr.inr.inr.inl => exact .inl ⟨rfl, rfl, rfl, rfl, rfl, rfl⟩
  case inr.inr.inr.inr.inr => exact .inl ⟨rfl, rfl, rfl, rfl, rfl, rfl⟩
  all_goals exact .inr ⟨by simp [Instr.op], rfl, rfl, rfl, rfl, rfl⟩

theorem State.encodeStep_sameResult (s : State) : s.SameResult s.encodeStep := by simp [State.Result]

/-- A decoder edge that completes nothing keeps the result registers. -/
theorem State.decodeStep_sameResult {s : State} {a : Bool} (hs : s.st.isDecoder = true)
    (h : (s.decodeStep a).st.isDecoder = true) : s.SameResult (s.decodeStep a) := by
  rcases s.decodeStep_cases a hs with ⟨_, _, _, _, _, _, -, e⟩ | ⟨_, _, _, _, _, _, -, -, e⟩
  · rw [e]
    exact ⟨rfl, rfl, rfl, rfl, rfl⟩
  · rw [e, State.finishAt_st] at h
    cases h

/-! ### What `encode_step` and the infinite wait do not read -/

/-- `encode_step` reads no synchroniser stage (spec/42_encoder.md R145). -/
theorem State.encodeStep_withSync (u : State) (z : List Level) :
    ({ u with sync := z } : State).encodeStep = { u.encodeStep with sync := z } := by
  have hlen : ({ u with sync := z } : State).txWave.length = u.txWave.length := rfl
  unfold State.encodeStep
  rw [hlen]
  split
  · rfl
  · rfl

/-- `encode_step` does not read `tmo`. -/
theorem State.encodeStep_withTmo (u : State) (x : Word) :
    ({ u with tmo := x } : State).encodeStep = { u.encodeStep with tmo := x } := by
  have hlen : ({ u with tmo := x } : State).txWave.length = u.txWave.length := rfl
  unfold State.encodeStep
  rw [hlen]
  split
  · rfl
  · rfl

/-- A wait without limit never ends by its budget, whatever `tmo` and `wcnt` hold (spec/43_decoder.md R163, R167). -/
theorem State.waitElapsed_of_inf {u : State} (h : u.inf = true) : u.waitElapsed = false :=
  u.waitElapsed_eq_false_iff.2 (.inl h)

theorem State.countWait_of_inf {u : State} (h : u.inf = true) : u.countWait = u := if_pos h

/-- With `inf = 1` no decoder state reads `tmo`: the wait states have no budget, and the measuring states read none. -/
theorem State.decodeStep_withTmo {u : State} (h : u.inf = true) (x : Word) (a : Bool) :
    ({ u with tmo := x } : State).decodeStep a = { u.decodeStep a with tmo := x } := by
  have hleft := State.waitElapsed_of_inf h
  have hleft' : ({ u with tmo := x } : State).waitElapsed = false := State.waitElapsed_of_inf h
  have hcount := State.countWait_of_inf h
  have hcount' : ({ u with tmo := x } : State).countWait = { u with tmo := x } := State.countWait_of_inf h
  cases hd : u.st.isDecoder with
  | false =>
    rw [u.decodeStep_of_not_decoder a hd, State.decodeStep_of_not_decoder { u with tmo := x } a hd]
  | true =>
    rcases Seq.waits_or_counts hd with (hs | hs) | hm
    · cases a
      · rw [State.decodeStep_waitIdle_idle hs hleft, State.decodeStep_waitIdle_idle (s := { u with tmo := x }) hs hleft',
          hcount, hcount']
      · rw [State.decodeStep_waitIdle_active hs hleft, State.decodeStep_waitIdle_active (s := { u with tmo := x }) hs hleft',
          hcount, hcount']
    · cases a
      · rw [State.decodeStep_waitMark_idle hs hleft, State.decodeStep_waitMark_idle (s := { u with tmo := x }) hs hleft',
          hcount, hcount']
      · rw [State.decodeStep_waitMark_active hs hleft, State.decodeStep_waitMark_active (s := { u with tmo := x }) hs hleft',
          hcount, hcount']
        rfl
    · have hbudget := State.decodeStep_withBudget hm x u.wcnt u.inf a
      have hkept : u.decodeStep a = (u.decodeStep a).withBudget u.tmo u.wcnt u.inf :=
        State.decodeStep_withBudget hm u.tmo u.wcnt u.inf a
      calc ({ u with tmo := x } : State).decodeStep a
          = (u.decodeStep a).withBudget x u.wcnt u.inf := hbudget
        _ = { (u.decodeStep a).withBudget u.tmo u.wcnt u.inf with tmo := x } := rfl
        _ = { u.decodeStep a with tmo := x } := by rw [← hkept]

/-- The acceptance of a DECODE overwrites `tmo`, that of every other command does not read it. -/
theorem exec_withTmo {i : Instr} {u t : State} (h : exec i u = .next t) (x : Word) :
    ∃ y, exec i { u with tmo := x } = .next { t with tmo := y } := by
  rcases exec_cases h with ⟨rfl, rfl⟩ | ⟨rfl, rfl⟩ | ⟨_, rfl, rfl⟩ | ⟨_, rfl, rfl⟩ | ⟨d, rfl, rfl⟩ | ⟨d, rfl, rfl⟩
  case inr.inr.inr.inr.inl => exact ⟨d, rfl⟩
  case inr.inr.inr.inr.inr => exact ⟨d, rfl⟩
  all_goals exact ⟨x, rfl⟩

/-! ### What an edge reads of its inputs -/

theorem State.edge_of_reset {s : State} {p : InPorts} (h : p.rst = true) :
    s.edge p = .next (s.shiftSync p.lineIn).applyReset := by
  simp [State.edge, h]

theorem State.edge_of_eTx {s : State} {p : InPorts} (h : p.rst = false) (hs : s.st = .eTx) :
    s.edge p = .next (s.atEdge p).encodeStep := by
  simp [State.edge, h, hs]

/-- A reset edge and an edge of a busy block read no command (spec/40_commands.md R100). -/
theorem State.edge_of_not_accepting {s : State} {p : InPorts} (v : Bool) (w : CmdWord) (h : p.rst = true ∨ s.st ≠ .idle) :
    s.edge { p with cmdValid := v, cmdWord := w } = s.edge p := by
  rcases h with hr | hs
  · simp [State.edge, hr]
  · unfold State.edge
    cases hq : s.st with
    | idle => exact absurd hq hs
    | _ => rfl

/-- An edge at which no command is offered does not read the word (R100). -/
theorem State.edge_of_no_command {p : InPorts} (s : State) (w : CmdWord) (hv : p.cmdValid = false) :
    s.edge { p with cmdWord := w } = s.edge p := by
  unfold State.edge
  cases s.st with
  | idle => simp [hv, State.atEdge]
  | _ => rfl

/-- In `E_TX` neither arm of an edge reads `line_in` or a synchroniser stage, which only the shift moves
(spec/42_encoder.md R145). -/
theorem State.edge_eTx_withLine {s t : State} {p : InPorts} (hs : s.st = .eTx) (h : s.edge p = .next t) (l : Level)
    (y : List Level) :
    ∃ z, ({ s with sync := y } : State).edge { p with lineIn := l } = .next { t with sync := z } := by
  refine ⟨(l :: y).take s.cfg.syncStages, ?_⟩
  rcases Bool.eq_false_or_eq_true p.rst with hr | hr
  · obtain rfl : (s.shiftSync p.lineIn).applyReset = t := by simpa [State.edge_of_reset hr] using h
    exact State.edge_of_reset (p := { p with lineIn := l }) hr
  · obtain rfl : (s.atEdge p).encodeStep = t := by simpa [State.edge_of_eTx hr hs] using h
    rw [← State.encodeStep_withSync]
    exact State.edge_of_eTx (s := { s with sync := y }) (p := { p with lineIn := l }) hr hs

/-! ### The obligations -/

/-- Settles O9: what `begun` writes, for inputs that are written down. -/
theorem stepRunsTheAcceptedCommand : Obligations.StepRunsTheAcceptedCommand := by
  unfold Obligations.StepRunsTheAcceptedCommand
  rintro s p ps i hp hr hs hv rfl
  have hports := State.nextPorts_of_inputs hp
  rw [step_of_accept (by rwa [hports]) hs (by rwa [hports]), State.begun_eq, hports, hp]
  rfl

/-- Settles O10: the edge does nothing but begin. -/
theorem idleEdgeWithoutCommandDoesNothing : Obligations.IdleEdgeWithoutCommandDoesNothing := by
  unfold Obligations.IdleEdgeWithoutCommandDoesNothing
  intro s hr hs hv
  rw [step_of_no_command hr hs hv, State.begun_eq]

/-- Settles O11: only the arm that accepts a command reads `cmd_valid`, and only an accepted word is read. -/
theorem unacceptedCommandIsNotRead : Obligations.UnacceptedCommandIsNotRead := by
  unfold Obligations.UnacceptedCommandIsNotRead
  intro s p ps v w
  exact ⟨State.edge_of_not_accepting (s := { s with inputs := ps, now := s.now + 1 }) v w,
    State.edge_of_no_command { s with inputs := ps, now := s.now + 1 } w⟩

/-- Settles O14, by induction on the run. -/
theorem runsNeverStop : Obligations.RunsNeverStop := by
  unfold Obligations.RunsNeverStop
  intro n
  induction n with
  | zero => exact fun s => ⟨s, run_zero s⟩
  | succ n ih =>
    intro s
    obtain ⟨u, hstep⟩ := step_answers_next s
    rw [run_succ hstep]
    exact ih u

/-- Settles O15, by induction on the run. -/
theorem runsKeepTheConfiguration : Obligations.RunsKeepTheConfiguration := by
  unfold Obligations.RunsKeepTheConfiguration
  intro n
  induction n with
  | zero =>
    intro s t h
    cases h
    rfl
  | succ n ih =>
    intro s t h
    obtain ⟨u, hstep⟩ := step_answers_next s
    rw [run_succ hstep] at h
    exact (ih u t h).trans (step_plumbing hstep).1

/-- Settles O18: of the arms of an edge, `exec` of a DECODE and the completion of a decode write the result registers. -/
theorem onlyDecodesWriteResults : Obligations.OnlyDecodesWriteResults := by
  unfold Obligations.OnlyDecodesWriteResults
  intro s t h hr
  have hacc := s.accepts_eq_true_iff s.nextPorts
  rcases step_cases h with ⟨hr', -⟩ | ⟨-, hs, hv, he⟩ | ⟨-, hs, hv, rfl⟩ | ⟨-, hs, rfl⟩ | ⟨-, hd, rfl⟩
  · simp [hr] at hr'
  · have haccepts := hacc.2 ⟨hr, hs, hv⟩
    rcases exec_result he with ⟨hop, hres⟩ | ⟨hop, hres⟩
    · exact ⟨fun _ hno => absurd hop (hno haccepts), fun hd => absurd hs (Seq.ne_idle_of_isDecoder hd), fun _ _ => hres⟩
    · exact ⟨fun _ _ => hres, fun hd => absurd hs (Seq.ne_idle_of_isDecoder hd), fun _ hop' => absurd hop' hop⟩
  · exact ⟨fun _ _ => ⟨rfl, rfl, rfl, rfl, rfl⟩, fun _ _ => ⟨rfl, rfl, rfl, rfl, rfl⟩,
      fun ha => by simp [hacc, hv] at ha⟩
  · exact ⟨fun _ _ => s.begun.encodeStep_sameResult, fun hd => absurd hs (Seq.ne_eTx_of_isDecoder hd),
      fun ha => by simp [hacc, hs] at ha⟩
  · exact ⟨fun hnd => by simp [hd] at hnd, fun _ ht => State.decodeStep_sameResult (s := s.begun) hd ht,
      fun ha => absurd (hacc.1 ha).2.1 (Seq.ne_idle_of_isDecoder hd)⟩

/-- Settles O22: latching and driving, written out. -/
theorem txLfStartsTheWaveform : Obligations.TxLfStartsTheWaveform := by
  unfold Obligations.TxLfStartsTheWaveform
  exact fun p s => rfl

/-- Settles O23: as O22, with the other protocol. -/
theorem txVfStartsTheWaveform : Obligations.TxVfStartsTheWaveform := by
  unfold Obligations.TxVfStartsTheWaveform
  exact fun p s => rfl

/-- Settles O32: an edge in `E_TX` is a reset edge or `encode_step`, and neither reads `line_in` or a synchroniser stage. -/
theorem encoderNeverReadsTheLine : Obligations.EncoderNeverReadsTheLine := by
  unfold Obligations.EncoderNeverReadsTheLine
  intro s t p ps l y hp hs h
  have hedge : s.consumePorts.edge p = .next t := by rwa [step, State.nextPorts_of_inputs hp] at h
  have htail : s.consumePorts = { s with inputs := ps, now := s.now + 1 } := by simp [State.consumePorts, hp]
  rw [htail] at hedge
  exact State.edge_eTx_withLine (s := { s with inputs := ps, now := s.now + 1 }) hs hedge l y

/-- Settles O5: `tmo` is latched, cleared, or compared with `wcnt` where `inf = 0`. -/
theorem infiniteDecodeNeverReadsItsTimeout : Obligations.InfiniteDecodeNeverReadsItsTimeout := by
  unfold Obligations.InfiniteDecodeNeverReadsItsTimeout
  intro s t x hinf h
  rcases step_cases h with ⟨hr, rfl⟩ | ⟨hr, hs, hv, he⟩ | ⟨hr, hs, hv, rfl⟩ | ⟨hr, hs, rfl⟩ | ⟨hr, hd, rfl⟩
  · exact ⟨0, step_of_reset (s := { s with tmo := x }) hr⟩
  · obtain ⟨y, hy⟩ := exec_withTmo he x
    exact ⟨y, (step_of_accept (s := { s with tmo := x }) hr hs hv).trans hy⟩
  · exact ⟨x, step_of_no_command (s := { s with tmo := x }) hr hs hv⟩
  · exact ⟨x, (step_of_encode (s := { s with tmo := x }) hr hs).trans
      (congrArg Host.Outcome.next (s.begun.encodeStep_withTmo x))⟩
  · exact ⟨x, (step_of_decode (s := { s with tmo := x }) hr hd).trans
      (congrArg Host.Outcome.next (State.decodeStep_withTmo (u := s.begun) hinf x s.seen))⟩

end Sys2Proof.Machine
end

section
/-! PROOFS. Families 41_timing_windows, 42_encoder and 60_exceptions, on the configuration alone: the ends of the windows
(spec/43_decoder.md R196), the build's checks (spec/60_exceptions.md R222), the payload bits a waveform reads
(spec/20_memory.md R54) and its envelope (spec/42_encoder.md R149). -/

namespace Sys2Proof

open Sys2Proof.Machine

/-! ### The ends of the windows -/

theorem Window.holds_min {w : Window} (h : w.min ≤ w.max) : w.holds w.min = true := (w.holds_iff _).2 ⟨le_rfl, h⟩

theorem Window.holds_max {w : Window} (h : w.min ≤ w.max) : w.holds w.max = true := (w.holds_iff _).2 ⟨h, le_rfl⟩

theorem Window.holds_eq_false_of_outside {w : Window} {n : Nat} (h : n < w.min ∨ w.max < n) : w.holds n = false := by
  rw [Bool.eq_false_iff, Ne, w.holds_iff]
  omega

theorem classifiesItsEnds_one {σ : Type} {a : Window} (ha : a.min ≤ a.max) (x : σ) : ClassifiesItsEnds [(a, x)] := by
  refine ⟨fun e he => ?_, fun n hn => ?_⟩
  · obtain rfl : e = (a, x) := by simpa using he
    exact ⟨classify_cons_of_holds (Window.holds_min ha) _ _, classify_cons_of_holds (Window.holds_max ha) _ _⟩
  · exact classify_cons_of_not_holds (Window.holds_eq_false_of_outside (hn (a, x) (by simp))) x []

/-- Disjointness keeps the first window from taking an end of the second. -/
theorem classifiesItsEnds_two {σ : Type} {a b : Window} (ha : a.min ≤ a.max) (hb : b.min ≤ b.max) (h : a.Disjoint b)
    (x y : σ) : ClassifiesItsEnds [(a, x), (b, y)] := by
  have second : ∀ {n}, b.holds n = true → classify n [(a, x), (b, y)] = some y := fun hn =>
    classify_two_of_second (Window.Disjoint.not_both (Or.symm h) hn) hn x y
  refine ⟨fun e he => ?_, fun n hn => ?_⟩
  · rcases List.mem_pair.1 he with rfl | rfl
    · exact ⟨classify_cons_of_holds (Window.holds_min ha) _ _, classify_cons_of_holds (Window.holds_max ha) _ _⟩
    · exact ⟨second (Window.holds_min hb), second (Window.holds_max hb)⟩
  · exact classify_two_of_none (Window.holds_eq_false_of_outside (hn (a, x) (by simp)))
      (Window.holds_eq_false_of_outside (hn (b, y) (by simp))) x y

/-! ### The build's checks -/

/-- A failing check has its number; a passing one leaves the answer to the checks after it. -/
theorem ite_not_some_eq_none_iff {p : Prop} [Decidable p] (n : Nat) (o : Option Nat) :
    (if ¬ p then some n else o) = none ↔ p ∧ o = none := by
  by_cases h : p <;> simp [h]

/-! ### The payload bits a waveform reads -/

theorem flatMap_payloadBits_congr {α : Type} (f : Bool → List α) {n : Nat} {p q : Word}
    (h : ∀ i < n, f (payloadBit p i) = f (payloadBit q i)) :
    (List.range n).flatMap (fun i => f (payloadBit p i)) = (List.range n).flatMap (fun i => f (payloadBit q i)) :=
  List.flatMap_congr fun i hi => h i (List.mem_range.1 hi)

/-- With equal gaps both LongFrame bits look alike (spec/42_encoder.md R146). -/
theorem Config.lfBit_eq_of_equal_gaps {c : Config} (h : c.lfGap0 = c.lfGap1) (b b' : Bool) : c.lfBit b = c.lfBit b' := by
  cases b <;> cases b' <;> simp [Config.lfBit, Config.lfGap, h]

/-! ### Envelopes -/

/-- What both envelopes begin with: the envelope of `Config.headerAndBits`. -/
def envHeaderAndBits (h hdrPulses hdrGap n : Nat) (N G : Nat → Nat) : List Bool :=
  envBurst hdrPulses h hdrGap ++ (List.range n).flatMap fun i => envBurst (N i) h (G i)

section
variable {c : Config} {W B : List Level} {E F : List Bool} {h hdrPulses hdrGap n : Nat} {N G : Nat → Nat}
  (hh : 1 ≤ h) (hhdr : 1 ≤ hdrPulses) (hN : ∀ i, 1 ≤ N i)
include hhdr hN

theorem length_envHeaderAndBits : (envHeaderAndBits h hdrPulses hdrGap n N G).length
    = segmentStart (2 * hdrPulses * h + hdrGap) (fun i => 2 * N i * h + G i) n := by
  rw [envHeaderAndBits, List.length_append, length_envBurst hhdr,
    length_flatMap_range _ _ (fun i => length_envBurst (hN i) h (G i)),
    segmentStart_add (2 * hdrPulses * h + hdrGap)]

include hh

/-- The envelopes of the header's burst and of each bit's stand at the bursts' positions, whatever follows. -/
theorem envHeaderAndBits_follow (hW : W = c.headerAndBits h hdrPulses hdrGap n N G ++ B)
    (hE : E = envHeaderAndBits h hdrPulses hdrGap n N G ++ F) :
    EnvelopeAt E W c.txOnLevel 0 hdrPulses h hdrGap ∧
      ∀ i < n, EnvelopeAt E W c.txOnLevel
        (segmentStart (2 * hdrPulses * h + hdrGap) (fun i => 2 * N i * h + G i) i) (N i) h (G i) := by
  obtain ⟨hhdrBurst, -, hbits⟩ := headerAndBits_levels hW
  have hhdrLen := length_envBurst hhdr h hdrGap
  rw [envHeaderAndBits, List.append_assoc] at hE
  refine ⟨.of_burstAt hhdr hh hhdrBurst fun k hk => ?_, fun i hi => .of_burstAt (hN i) hh (hbits i hi).1 fun k hk => ?_⟩
  · rw [hE, Nat.zero_add, List.getElem?_append_left (by omega)]
  · rw [hE]
    exact getElem?_between _ F _ _ (fun i => length_envBurst (hN i) h (G i)) hhdrLen hi hk

end

/-- A LongFrame: a header with its bits, and a closing burst. -/
theorem envLf_follows_waveLf {c : Config} (ho : c.Ok) (p : Word) :
    EnvelopeAt (c.envLf p) (c.waveLf p) c.txOnLevel 0 c.lfHdrPulses c.lfH c.lfHdrGap ∧
      (∀ i < 32, EnvelopeAt (c.envLf p) (c.waveLf p) c.txOnLevel
        (segmentStart (2 * c.lfHdrPulses * c.lfH + c.lfHdrGap)
          (fun i => 2 * c.lfBitPulses * c.lfH + c.lfGap (payloadBit p i)) i)
        c.lfBitPulses c.lfH (c.lfGap (payloadBit p i))) ∧
      EnvelopeAt (c.envLf p) (c.waveLf p) c.txOnLevel
        (segmentStart (2 * c.lfHdrPulses * c.lfH + c.lfHdrGap)
          (fun i => 2 * c.lfBitPulses * c.lfH + c.lfGap (payloadBit p i)) 32) c.lfTrailPulses c.lfH 0 ∧
      (c.envLf p).length = (c.waveLf p).length := by
  obtain ⟨-, -, -, -, -, -, -, -, ⟨hH, -, hhdrPulses, hbitPulses, htrailPulses, -⟩, -⟩ := ho
  have hwave : c.waveLf p = c.headerAndBits c.lfH c.lfHdrPulses c.lfHdrGap 32 (fun _ => c.lfBitPulses)
      (fun i => c.lfGap (payloadBit p i)) ++ c.burst c.lfTrailPulses c.lfH := rfl
  have henv : c.envLf p = envHeaderAndBits c.lfH c.lfHdrPulses c.lfHdrGap 32 (fun _ => c.lfBitPulses)
      (fun i => c.lfGap (payloadBit p i)) ++ envBurst c.lfTrailPulses c.lfH 0 := rfl
  have hlen := length_envHeaderAndBits (h := c.lfH) (hdrGap := c.lfHdrGap) (n := 32)
    (G := fun i => c.lfGap (payloadBit p i)) hhdrPulses (fun _ => hbitPulses)
  obtain ⟨hhdr, hbits⟩ := envHeaderAndBits_follow hH hhdrPulses (fun _ => hbitPulses) hwave henv
  have htrail : BurstAt (c.waveLf p) c.txOnLevel _ c.lfTrailPulses c.lfH :=
    .of_eq (B := []) (by rw [hwave, List.append_nil]) (c.length_headerAndBits ..)
  refine ⟨hhdr, hbits, .of_burstAt htrailPulses hH htrail fun k hk => ?_, ?_⟩
  · rw [henv, ← hlen, List.getElem?_append_right (by omega), Nat.add_sub_cancel_left]
  · rw [hwave, henv, List.length_append, List.length_append, hlen, c.length_headerAndBits, length_envBurst htrailPulses,
      c.length_burst, Nat.add_zero]

/-- A VariableFrame: a header with its bits and nothing more. -/
theorem envVf_follows_waveVf {c : Config} (ho : c.Ok) (p : Word) :
    EnvelopeAt (c.envVf p) (c.waveVf p) c.txOnLevel 0 c.vfHdrPulses c.vfH c.vfHdrGap ∧
      (∀ i < 12, EnvelopeAt (c.envVf p) (c.waveVf p) c.txOnLevel
        (segmentStart (2 * c.vfHdrPulses * c.vfH + c.vfHdrGap)
          (fun i => 2 * c.vfPulses (payloadBit p i) * c.vfH + c.vfGap) i)
        (c.vfPulses (payloadBit p i)) c.vfH c.vfGap) ∧
      (c.envVf p).length = (c.waveVf p).length := by
  obtain ⟨-, -, -, -, -, -, -, -, ⟨-, hH, -, -, -, hhdrPulses, hzero, hone⟩, -⟩ := ho
  have hpulses : ∀ i, 1 ≤ c.vfPulses (payloadBit p i) := fun i => by
    cases payloadBit p i with
    | false => exact hzero
    | true => exact hone
  have hwave : c.waveVf p = c.headerAndBits c.vfH c.vfHdrPulses c.vfHdrGap 12
      (fun i => c.vfPulses (payloadBit p i)) (fun _ => c.vfGap) := rfl
  have henv : c.envVf p = envHeaderAndBits c.vfH c.vfHdrPulses c.vfHdrGap 12
      (fun i => c.vfPulses (payloadBit p i)) (fun _ => c.vfGap) := rfl
  obtain ⟨hhdr, hbits⟩ := envHeaderAndBits_follow hH hhdrPulses hpulses (hwave.trans (List.append_nil _).symm)
    (henv.trans (List.append_nil _).symm)
  refine ⟨hhdr, hbits, ?_⟩
  rw [hwave, henv, length_envHeaderAndBits hhdrPulses hpulses, c.length_headerAndBits]

/-! ### The obligations -/

/-- Settles O36: each classification is one legal window, or two legal and disjoint ones. -/
theorem windowEndsClassify : Obligations.WindowEndsClassify := by
  unfold Obligations.WindowEndsClassify
  rintro c ⟨hlegal, -, hHdrMarks, hLfHdrSpaces, hLfSpaces, hVfMarks, -⟩
  have legal : ∀ {w}, w ∈ c.windows → w.min ≤ w.max := fun hw => (hlegal _ hw).2
  exact ⟨classifiesItsEnds_two (legal (by simp [Config.windows])) (legal (by simp [Config.windows])) hHdrMarks _ _,
    classifiesItsEnds_two (legal (by simp [Config.windows])) (legal (by simp [Config.windows])) hLfHdrSpaces _ _,
    classifiesItsEnds_two (legal (by simp [Config.windows])) (legal (by simp [Config.windows])) hLfSpaces _ _,
    classifiesItsEnds_one (legal (by simp [Config.windows])) _,
    classifiesItsEnds_two (legal (by simp [Config.windows])) (legal (by simp [Config.windows])) hVfMarks _ _⟩

/-- Settles O37: `configError` asks for the ten checks one after another. -/
theorem buildFailsExactlyOnAFailedCheck : Obligations.BuildFailsExactlyOnAFailedCheck := by
  unfold Obligations.BuildFailsExactlyOnAFailedCheck
  intro c
  simp only [Config.configError, ite_not_some_eq_none_iff, and_true, Config.Ok]

/-- Settles O31: a waveform's bits are read through `payloadBit`, twelve of them in TX.VF. -/
theorem waveformsReadTheirPayloadBitsOnly : Obligations.WaveformsReadTheirPayloadBitsOnly := by
  unfold Obligations.WaveformsReadTheirPayloadBitsOnly
  intro c p q
  refine ⟨fun h => ?_, fun h => ?_⟩
  · have hbits := flatMap_payloadBits_congr c.vfBit fun i hi => congrArg c.vfBit (h i hi)
    rw [Config.waveVf, Config.waveVf, hbits]
  · have hbits := flatMap_payloadBits_congr (n := 32) (p := p) (q := q) c.lfBit fun _ _ => c.lfBit_eq_of_equal_gaps h _ _
    rw [Config.waveLf, Config.waveLf, hbits]

/-- Settles O29: waveform and envelope have the same parts. -/
theorem envelopesFollowTheWaveforms : Obligations.EnvelopesFollowTheWaveforms := by
  unfold Obligations.EnvelopesFollowTheWaveforms
  rintro c p gap pulses startL startV ho hgap hpulses rfl rfl
  obtain rfl : gap = fun i => c.lfGap (payloadBit p i) := funext hgap
  obtain rfl : pulses = fun i => c.vfPulses (payloadBit p i) := funext hpulses
  exact ⟨envLf_follows_waveLf ho p, envVf_follows_waveVf ho p⟩

end Sys2Proof
end

section
/-! PROOFS. What an edge of a measuring state can lead to in a block of a checked configuration, said once
(spec/41_timing_windows.md R124, R125, spec/43_decoder.md R170 to R182): `EndsRun` and `decodeStep_measuring_cases`. The
sections after this one derive from it. -/

namespace Sys2Proof.Machine

/-! ### One edge of a measuring state -/

/-- `t` is what the sample that ends the run of `s` leads to in a block of a checked configuration, state by state
(spec/43_decoder.md R170 to R182). -/
inductive State.EndsRun (s : State) : State → Prop
  | hdrMark_long (hs : s.st = .dHdrMark) (h : s.cfg.wLfHdrMark.holds s.cnt = true) :
    s.EndsRun (s.goOn .dLfHdrSpace 1 s.wcnt s.bidx s.acc .longFrame)
  | hdrMark_variable (hs : s.st = .dHdrMark) (h : s.cfg.wVfHdrMark.holds s.cnt = true) :
    s.EndsRun (s.goOn .dVfHdrSpace 1 s.wcnt s.bidx s.acc .variableFrame)
  | lfHdrSpace_data (hs : s.st = .dLfHdrSpace) (h : s.cfg.wLfHdrSpace.holds s.cnt = true) :
    s.EndsRun (s.goOn .dLfMark 1 s.wcnt 0 s.acc s.dproto)
  | lfHdrSpace_rpt (hs : s.st = .dLfHdrSpace) (h : s.cfg.wLfHdrSpace.holds s.cnt = false)
      (h' : s.cfg.wLfRptSpace.holds s.cnt = true) :
    s.EndsRun (s.goOn .dLfRptTrail 1 s.wcnt s.bidx s.acc s.dproto)
  | lfMark (hs : s.st = .dLfMark) : s.EndsRun (s.goOn .dLfSpace 1 s.wcnt s.bidx s.acc s.dproto)
  | lfSpace_bit (b : Bool) (hs : s.st = .dLfSpace) (hb : BitOf s.cfg.wLfSpace0 s.cfg.wLfSpace1 s.cnt b)
      (hi : s.bidx ≠ 31) :
    s.EndsRun (s.goOn .dLfMark 1 s.wcnt (s.bidx + 1) (writeBit s.acc s.bidx b) s.dproto)
  | lfSpace_lastBit (b : Bool) (hs : s.st = .dLfSpace) (hb : BitOf s.cfg.wLfSpace0 s.cfg.wLfSpace1 s.cnt b)
      (hi : s.bidx = 31) :
    s.EndsRun (s.goOn .dLfTrail 1 s.wcnt s.bidx (writeBit s.acc s.bidx b) s.dproto)
  | vfHdrSpace (hs : s.st = .dVfHdrSpace) (h : s.cfg.wVfHdrSpace.holds s.cnt = true) :
    s.EndsRun (s.goOn .dVfMark 1 s.wcnt 0 s.acc s.dproto)
  | vfMark_bit (b : Bool) (hs : s.st = .dVfMark) (hb : BitOf s.cfg.wVfMark0 s.cfg.wVfMark1 s.cnt b) (hi : s.bidx ≠ 19) :
    s.EndsRun (s.goOn .dVfSpace 1 s.wcnt (s.bidx + 1) (orBit s.acc s.bidx b) s.dproto)
  | vfSpace (hs : s.st = .dVfSpace) : s.EndsRun (s.goOn .dVfMark 1 s.wcnt s.bidx s.acc s.dproto)
  | lfRptTrail (hs : s.st = .dLfRptTrail) : s.EndsRun (({ s with cnt := 1 } : State).ended .success .longFrame 0 0 true)
  | lfTrail (hs : s.st = .dLfTrail) : s.EndsRun (({ s with cnt := 1 } : State).ended .success .longFrame 32 s.acc false)
  | vfMark_lastBit (b : Bool) (hs : s.st = .dVfMark) (hb : BitOf s.cfg.wVfMark0 s.cfg.wVfMark1 s.cnt b)
      (hi : s.bidx = 19) :
    s.EndsRun (({ s with cnt := 1 } : State).ended .success .variableFrame 20 (orBit s.acc s.bidx b) false)
  | error : s.EndsRun (({ s with cnt := 1 } : State).endedFailed .protocolError)

/-- Two windows, of which the first is tried first: one of them holds the length, or none does. -/
theorem holds_cases (w w' : Window) (n : Nat) :
    w.holds n = true ∨ (w.holds n = false ∧ w'.holds n = true) ∨ (w.holds n = false ∧ w'.holds n = false) := by
  cases w.holds n <;> cases w'.holds n <;> simp

/-- The same for the windows of a bit. -/
theorem bitOf_cases (w w' : Window) (n : Nat) : (∃ b, BitOf w w' n b) ∨ (w.holds n = false ∧ w'.holds n = false) := by
  rcases holds_cases w w' n with h | h | h
  · exact .inl ⟨false, .inl ⟨rfl, h⟩⟩
  · exact .inl ⟨true, .inr ⟨rfl, h⟩⟩
  · exact .inr h

theorem State.decodeStep_endsRun {s : State} {L : Bool} (ho : s.cfg.Ok) (hL : s.st.counts = some L) :
    s.EndsRun (s.decodeStep (!L)) := by
  cases hs : s.st <;> rw [hs] at hL <;> simp only [Seq.counts, reduceCtorEq, Option.some.injEq] at hL <;> subst hL
  case dHdrMark =>
    rcases holds_cases s.cfg.wLfHdrMark s.cfg.wVfHdrMark s.cnt with h | ⟨h, h'⟩ | ⟨h, h'⟩
    · exact State.decodeStep_hdrMark_long ho hs h ▸ .hdrMark_long hs h
    · exact State.decodeStep_hdrMark_variable ho hs h h' ▸ .hdrMark_variable hs h'
    · exact State.decodeStep_hdrMark_error ho hs h h' ▸ .error
  case dLfHdrSpace =>
    rcases holds_cases s.cfg.wLfHdrSpace s.cfg.wLfRptSpace s.cnt with h | ⟨h, h'⟩ | ⟨h, h'⟩
    · exact State.decodeStep_lfHdrSpace_data ho hs h ▸ .lfHdrSpace_data hs h
    · exact State.decodeStep_lfHdrSpace_rpt ho hs h h' ▸ .lfHdrSpace_rpt hs h h'
    · exact State.decodeStep_lfHdrSpace_error ho hs h h' ▸ .error
  case dLfMark => exact State.decodeStep_lfMark_ended ho hs ▸ .lfMark hs
  case dLfSpace =>
    rcases bitOf_cases s.cfg.wLfSpace0 s.cfg.wLfSpace1 s.cnt with ⟨b, hb⟩ | ⟨h, h'⟩
    · by_cases hi : s.bidx = 31
      · exact State.decodeStep_lfSpace_lastBit ho hs hb hi ▸ .lfSpace_lastBit b hs hb hi
      · exact State.decodeStep_lfSpace_bit ho hs hb hi ▸ .lfSpace_bit b hs hb hi
    · exact State.decodeStep_lfSpace_error ho hs h h' ▸ .error
  case dLfTrail => exact State.decodeStep_lfTrail_ended ho hs ▸ .lfTrail hs
  case dLfRptTrail => exact State.decodeStep_lfRptTrail_ended ho hs ▸ .lfRptTrail hs
  case dVfHdrSpace =>
    cases h : s.cfg.wVfHdrSpace.holds s.cnt with
    | true => exact State.decodeStep_vfHdrSpace_ok ho hs h ▸ .vfHdrSpace hs h
    | false => exact State.decodeStep_vfHdrSpace_error ho hs h ▸ .error
  case dVfSpace => exact State.decodeStep_vfSpace_ended ho hs ▸ .vfSpace hs
  case dVfMark =>
    rcases bitOf_cases s.cfg.wVfMark0 s.cfg.wVfMark1 s.cnt with ⟨b, hb⟩ | ⟨h, h'⟩
    · by_cases hi : s.bidx = 19
      · exact State.decodeStep_vfMark_lastBit ho hs hb hi ▸ .vfMark_lastBit b hs hb hi
      · exact State.decodeStep_vfMark_bit ho hs hb hi ▸ .vfMark_bit b hs hb hi
    · exact State.decodeStep_vfMark_error ho hs h h' ▸ .error

/-- Everything an edge of a measuring state can do in a block of a checked configuration: count, end the frame or the decode
at the limit, or end the run (spec/41_timing_windows.md R124, R125). -/
theorem State.decodeStep_measuring_cases {s : State} {L : Bool} (ho : s.cfg.Ok) (hL : s.st.counts = some L) (a : Bool) :
    (a = L ∧ s.cnt + 1 < s.limit ∧ s.decodeStep a = { s with cnt := s.cnt + 1 }) ∨
    (a = L ∧ s.limit ≤ s.cnt + 1 ∧ s.AtBlockEnd ∧
      s.decodeStep a = s.ended .success .variableFrame (s.bidx.zeroExtend 6) s.acc false) ∨
    (a = L ∧ s.limit ≤ s.cnt + 1 ∧ ¬ s.AtBlockEnd ∧ s.decodeStep a = s.endedFailed .timeout) ∨
    (a = !L ∧ s.EndsRun (s.decodeStep a)) := by
  rcases Bool.eq_or_eq_not a L with rfl | rfl
  · by_cases hlim : s.cnt + 1 < s.limit
    · exact .inl ⟨rfl, hlim, State.decodeStep_count ho hL hlim⟩
    · by_cases hb : s.AtBlockEnd
      · obtain rfl : false = a := by simpa [hb.1, Seq.counts] using hL
        exact .inr (.inl ⟨rfl, by omega, hb, State.decodeStep_blockEnd hb.1 hb.2 (by omega)⟩)
      · exact .inr (.inr (.inl ⟨rfl, by omega, hb, State.decodeStep_limit hL (by omega) hb⟩))
  · exact .inr (.inr (.inr ⟨rfl, State.decodeStep_endsRun ho hL⟩))

end Sys2Proof.Machine
end

section
/-! PROOFS. Family 10_state: the invariant of a checked block (spec/10_state.md R22, R31, R35), arm by arm of an edge. -/

namespace Sys2Proof.Machine
/-! ### The invariant's parts -/

theorem State.FrameInv.of_sameResult {s t : State} (h : s.FrameInv) (hr : s.SameResult t) : t.FrameInv := by
  obtain ⟨ho, hp, hc, hv, hrep⟩ := hr
  exact ⟨by simpa [ho, hp, hc, hv, hrep] using h.rpt, by simpa [ho, hp, hc, hv, hrep] using h.varLen,
    by simpa [ho, hp, hc, hv, hrep] using h.long, by simpa [ho, hp, hc, hv, hrep] using h.failed⟩

theorem State.FrameInv.of_failed {t : State} {o : ResOutcome} (h : t.Failed o) (ho : o ≠ .success) : t.FrameInv := by
  obtain ⟨rfl, hp, hc, hv, hr⟩ := h
  exact ⟨fun hs => absurd hs ho, fun hs => absurd hs ho, fun hs => absurd hs ho, fun _ => ⟨hp, hc, hv, hr⟩⟩

theorem State.frameInv_repeatCode (u : State) : (u.ended .success .longFrame 0 0 true).FrameInv :=
  ⟨fun _ _ => ⟨rfl, rfl, rfl⟩, fun _ hp => absurd hp Protocol.noConfusion, fun _ _ hr => absurd hr Bool.noConfusion,
    fun hno => absurd rfl hno⟩

theorem State.frameInv_longFrame (u : State) (v : Word) : (u.ended .success .longFrame 32 v false).FrameInv :=
  ⟨fun _ hr => absurd hr Bool.noConfusion, fun _ hp => absurd hp Protocol.noConfusion, fun _ _ _ => rfl,
    fun hno => absurd rfl hno⟩

/-- A VariableFrame has 12, 15 or 20 bits and none above them. -/
theorem State.frameInv_variableFrame (u : State) {c : BitVec 6} {v : Word} (hc : c = 12 ∨ c = 15 ∨ c = 20)
    (hv : ∀ i, c.toNat ≤ i → v.getLsbD i = false) : (u.ended .success .variableFrame c v false).FrameInv :=
  ⟨fun _ hr => absurd hr Bool.noConfusion, fun _ _ => ⟨hc, rfl, hv⟩, fun _ hp => absurd hp Protocol.noConfusion,
    fun hno => absurd rfl hno⟩

/-- Outside the decoder states the decoder's registers are free. -/
theorem State.DecoderInv.of_not_decoding {t : State} (hst : t.st = .idle ∨ t.st = .eTx) : t.DecoderInv := by
  rcases hst with hst | hst <;>
    exact ⟨by simp [hst, Seq.isDecoder], by simp [State.bidxOk, hst], by simp [hst, Seq.isDecoder], by simp [hst],
      by simp [hst]⟩

/-- In `IDLE` the invariant asks nothing of the engines' registers but the bounds of the counters. -/
theorem State.Inv.of_idle {t : State} (hst : t.st = .idle) (ho : t.cfg.Ok) (hl : t.sync.length = t.cfg.syncStages)
    (hline : t.LineInv) (hframe : t.FrameInv) (hcnt : t.cnt + 1 ≤ t.cfg.maxLimit) (hw : t.wcnt ≤ t.tmo)
    (hinf : t.inf = true → t.wcnt = 0) : t.Inv where
  cfgOk := ho
  syncLen := hl
  line := hline
  frame := hframe
  counters := ⟨hcnt, by simp [hst, Seq.counts], hw, hinf, by simp [hst]⟩
  encoder := by simp [State.EncoderInv, hst]
  decoder := .of_not_decoding (.inl hst)
  doneIdle := fun _ => hst

/-- `d` is the protocol that the states after the header mark stand for (spec/43_decoder.md R170). -/
def Seq.Selects (q : Seq) (d : Protocol) : Prop :=
  (q = .dLfHdrSpace ∨ q = .dLfMark ∨ q = .dLfSpace ∨ q = .dLfTrail ∨ q = .dLfRptTrail → d = .longFrame) ∧
    (q = .dVfHdrSpace ∨ q = .dVfMark ∨ q = .dVfSpace → d = .variableFrame)

theorem State.DecoderInv.selects {s : State} (h : s.DecoderInv) : s.st.Selects s.dproto := ⟨h.longSel, h.varSel⟩

theorem two_le_maxLimit {c : Config} (h : c.Ok) : 2 ≤ c.maxLimit := by
  obtain ⟨-, -, -, -, -, -, ⟨hsym, -⟩, -⟩ := h
  exact hsym.trans (le_max_left _ _)

/-! ### The edges of a decode keep the invariant -/

section
variable {s t : State} {q : Seq} {n : Nat} {w : Word} {b : BitVec 5} {v : Word} {d : Protocol} {L : Bool}

/-- A decoder edge that keeps the decode in flight. -/
theorem State.Inv.goOn (h : s.Inv) (hs : s.st.isDecoder = true) (hq : q.isDecoder = true)
    (hcnt : (s.goOn q n w b v d).CounterInv) (hb : (s.goOn q n w b v d).bidxOk)
    (hacc : q ≠ .dLfTrail → ∀ i, b.toNat ≤ i → v.getLsbD i = false) (hsel : q.Selects d) :
    (s.goOn q n w b v d).Inv where
  cfgOk := h.cfgOk
  syncLen := h.syncLen
  line := h.line.of_unchanged (Seq.ne_eTx_of_isDecoder hs) (Seq.ne_eTx_of_isDecoder hq) rfl rfl rfl
  frame := h.frame.of_sameResult ⟨rfl, rfl, rfl, rfl, rfl⟩
  counters := hcnt
  encoder := fun hst => absurd hst (Seq.ne_eTx_of_isDecoder hq)
  decoder := ⟨fun _ => h.decoder.noResult hs, hb, fun _ => hacc, hsel.1, hsel.2⟩
  doneIdle := fun hd => absurd (h.doneIdle hd) (Seq.ne_idle_of_isDecoder hs)

/-- A decoder edge that calls `finish`. -/
theorem State.Inv.ended {o : ResOutcome} {p : Protocol} {c : BitVec 6} {r : Bool} (h : s.Inv)
    (hs : s.st.isDecoder = true) (hn : n + 1 ≤ s.cfg.maxLimit)
    (hframe : (({ s with cnt := n } : State).ended o p c v r).FrameInv) :
    (({ s with cnt := n } : State).ended o p c v r).Inv :=
  .of_idle rfl h.cfgOk h.syncLen
    (h.line.of_unchanged (Seq.ne_eTx_of_isDecoder hs) (by simp [State.ended]) rfl rfl rfl) hframe hn h.counters.wcntRange
    h.counters.wcntInf

theorem State.Inv.endedFailed {o : ResOutcome} (h : s.Inv) (hs : s.st.isDecoder = true) (hn : n + 1 ≤ s.cfg.maxLimit)
    (ho : o ≠ .success) : (({ s with cnt := n } : State).endedFailed o).Inv :=
  h.ended hs hn (.of_failed (State.failed_endedFailed _ o) ho)

/-- The first sample of a run is counted, which is below every limit. -/
theorem State.Inv.newRun_counters (h : s.Inv) (hq : q.isDecoder = true) : (s.goOn q 1 s.wcnt b v d).CounterInv where
  cntBound := two_le_maxLimit h.cfgOk
  cntRange := fun _ => ⟨le_rfl, State.two_le_limit (s := s.goOn q 1 s.wcnt b v d) h.cfgOk⟩
  wcntRange := h.counters.wcntRange
  wcntInf := h.counters.wcntInf
  ekRange := fun hst => absurd hst (Seq.ne_eTx_of_isDecoder hq)

theorem writeBit_high {v : Word} {b : BitVec 5} (hv : ∀ i, b.toNat ≤ i → v.getLsbD i = false) (hb : b ≠ 31) (x : Bool)
    {i : Nat} (hi : (b + 1).toNat ≤ i) : (writeBit v b x).getLsbD i = false := by
  have hsucc : (b + 1).toNat = b.toNat + 1 := by bv_omega
  by_cases h32 : i < 32
  · rw [getLsbD_writeBit _ _ _ h32, if_neg (by omega), hv i (by omega)]
  · exact BitVec.getLsbD_of_ge _ _ (by omega)

theorem orBit_high {v : Word} {b : BitVec 5} (hv : ∀ i, b.toNat ≤ i → v.getLsbD i = false) (x : Bool)
    {i : Nat} (hi : b.toNat + 1 ≤ i) : (orBit v b x).getLsbD i = false := by
  by_cases h32 : i < 32
  · simp [getLsbD_orBit _ _ _ h32, hv i (by omega), show i ≠ b.toNat by omega]
  · exact BitVec.getLsbD_of_ge _ _ (by omega)

/-- The sample that ends a run keeps the invariant, whatever it leads to. -/
theorem State.Inv.after_endsRun (h : s.Inv) (hL : s.st.counts = some L) (he : s.EndsRun t) : t.Inv := by
  have hd := Seq.isDecoder_of_counts hL
  have hb := h.decoder.bidx
  have hacc := h.decoder.accHigh hd
  have hsel := h.decoder.selects
  have next : ∀ {q b v d}, Seq.isDecoder q = true → (s.goOn q 1 s.wcnt b v d).bidxOk →
      (q ≠ .dLfTrail → ∀ i, b.toNat ≤ i → v.getLsbD i = false) → q.Selects d → (s.goOn q 1 s.wcnt b v d).Inv :=
    fun hq => h.goOn hd hq (h.newRun_counters hq)
  have finish : ∀ {o p c v r}, (({ s with cnt := 1 } : State).ended o p c v r).FrameInv →
      (({ s with cnt := 1 } : State).ended o p c v r).Inv := h.ended hd (two_le_maxLimit h.cfgOk)
  unfold State.bidxOk at hb
  unfold Seq.Selects at hsel
  cases he with
  | hdrMark_long hs hw =>
    simp only [hs] at hb hacc
    exact next rfl hb (fun _ => hacc (by decide)) (by simp [Seq.Selects])
  | hdrMark_variable hs hw =>
    simp only [hs] at hb hacc
    exact next rfl hb (fun _ => hacc (by decide)) (by simp [Seq.Selects])
  | lfHdrSpace_data hs hw =>
    simp only [hs] at hb hacc hsel
    exact next rfl trivial (fun _ => by simpa [hb] using hacc) (by simpa [Seq.Selects] using hsel)
  | lfHdrSpace_rpt hs hw hw' =>
    simp only [hs] at hb hacc hsel
    exact next rfl hb (fun _ => hacc (by decide)) (by simpa [Seq.Selects] using hsel)
  | lfMark hs =>
    simp only [hs] at hb hacc hsel
    exact next rfl trivial (fun _ => hacc (by decide)) (by simpa [Seq.Selects] using hsel)
  | lfSpace_bit x hs hw hi =>
    simp only [hs] at hb hacc hsel
    exact next rfl trivial (fun _ i => writeBit_high (hacc (by decide)) hi x) (by simpa [Seq.Selects] using hsel)
  | lfSpace_lastBit x hs hw hi =>
    simp only [hs] at hb hacc hsel
    exact next rfl hi (fun hne => absurd rfl hne) (by simpa [Seq.Selects] using hsel)
  | vfHdrSpace hs hw =>
    simp only [hs] at hb hacc hsel
    exact next rfl (Nat.zero_le 19) (fun _ => by simpa [hb] using hacc) (by simpa [Seq.Selects] using hsel)
  | vfMark_bit x hs hw hi =>
    simp only [hs] at hb hacc hsel
    have hsucc : (s.bidx + 1).toNat = s.bidx.toNat + 1 := by bv_omega
    have hle : s.bidx.toNat + 1 ≤ 19 := by bv_omega
    exact next rfl (by simp only [State.bidxOk, State.goOn]; omega) (fun _ i hi => orBit_high (hacc (by decide)) x (by omega))
      (by simpa [Seq.Selects] using hsel)
  | vfSpace hs =>
    simp only [hs] at hb hacc hsel
    exact next rfl hb.2 (fun _ => hacc (by decide)) (by simpa [Seq.Selects] using hsel)
  | lfRptTrail hs => exact finish (State.frameInv_repeatCode _)
  | lfTrail hs => exact finish (State.frameInv_longFrame _ _)
  | vfMark_lastBit x hs hw hi =>
    simp only [hs] at hacc
    exact finish (State.frameInv_variableFrame _ (by simp) fun i hle =>
      orBit_high (hacc (by decide)) x (by simpa [hi] using hle))
  | error => exact h.endedFailed hd (two_le_maxLimit h.cfgOk) (by decide)

/-- An edge of a measuring state keeps the invariant. -/
theorem State.Inv.after_measuring (h : s.Inv) (hL : s.st.counts = some L) (a : Bool) : (s.decodeStep a).Inv := by
  have hd := Seq.isDecoder_of_counts hL
  have hacc := h.decoder.accHigh hd
  obtain ⟨hrange1, hrange⟩ := h.counters.cntRange (by simp [hL])
  have hmax := s.limit_le
  rcases State.decodeStep_measuring_cases h.cfgOk hL a with ⟨-, hlt, e⟩ | ⟨-, -, ⟨hs, hb⟩, e⟩ | ⟨-, -, -, e⟩ | ⟨-, he⟩
  · rw [e]
    have hcnt : (s.goOn s.st (s.cnt + 1) s.wcnt s.bidx s.acc s.dproto).CounterInv :=
      ⟨by show s.cnt + 1 + 1 ≤ s.cfg.maxLimit; omega, fun _ => ⟨Nat.le_add_left .., hlt⟩, h.counters.wcntRange,
        h.counters.wcntInf, h.counters.ekRange⟩
    exact h.goOn hd hd hcnt h.decoder.bidx hacc h.decoder.selects
  · rw [e]
    refine h.ended (n := s.cnt) hd (by omega) (State.frameInv_variableFrame _ ?_ fun i hi => ?_)
    · rcases hb with hb | hb <;> simp [hb]
    · refine hacc (by simp [hs]) i ?_
      rcases hb with hb | hb <;> simpa [hb] using hi
  · rw [e]
    exact h.endedFailed (n := s.cnt) hd (by omega) (by decide)
  · exact h.after_endsRun hL he

/-- An edge of a wait state keeps it: a limited wait that goes on has not used up its budget (spec/43_decoder.md R163). -/
theorem State.Inv.after_wait (h : s.Inv) (hs : s.st = .dWaitIdle ∨ s.st = .dWaitMark) (a : Bool) :
    (s.decodeStep a).Inv := by
  have hd : s.st.isDecoder = true := by rcases hs with hs | hs <;> rw [hs] <;> rfl
  have hacc := h.decoder.accHigh hd (by rcases hs with hs | hs <;> simp [hs])
  have hb : s.bidx = 0 := by
    have := h.decoder.bidx
    rcases hs with hs | hs <;> simpa only [State.bidxOk, hs] using this
  have hcnt := h.counters.cntBound
  have hwcnt := h.counters.wcntRange
  cases hw : s.waitElapsed with
  | true =>
    rw [State.decodeStep_of_waitElapsed hs hw]
    exact h.endedFailed (n := s.cnt) hd hcnt (by decide)
  | false =>
    have hleft := s.waitElapsed_eq_false_iff.1 hw
    have hcount : s.countWait.wcnt ≤ s.tmo ∧ (s.inf = true → s.countWait.wcnt = 0) := by
      rw [State.countWait_wcnt]
      cases hinf : s.inf with
      | true => exact ⟨hwcnt, fun _ => h.counters.wcntInf hinf⟩
      | false =>
        have hlt : s.wcnt < s.tmo := hleft.resolve_left (by simp [hinf])
        exact ⟨by simp only [Bool.false_eq_true, if_false]; bv_omega, by simp⟩
    have next : ∀ {q n}, q = .dWaitIdle ∨ q = .dWaitMark ∨ q = .dHdrMark → n + 1 ≤ s.cfg.maxLimit →
        (q = .dHdrMark → n = 1) → (s.goOn q n s.countWait.wcnt s.bidx s.acc s.dproto).Inv := by
      intro q n hq hn h1
      have hcounters : (s.goOn q n s.countWait.wcnt s.bidx s.acc s.dproto).CounterInv := by
        refine ⟨hn, fun hm => ?_, hcount.1, hcount.2, fun he => ?_⟩
        · have hq' : q = .dHdrMark := by rcases hq with rfl | rfl | rfl <;> simp_all [Seq.counts]
          rw [State.goOn_cnt, h1 hq']
          exact ⟨le_rfl, State.two_le_limit (s := s.goOn q n s.countWait.wcnt s.bidx s.acc s.dproto) h.cfgOk⟩
        · rcases hq with rfl | rfl | rfl <;> cases he
      rcases hq with rfl | rfl | rfl <;>
        exact h.goOn hd rfl hcounters hb (fun _ => hacc) (by simp [Seq.Selects])
    have hstay : s.countWait = s.goOn s.st s.cnt s.countWait.wcnt s.bidx s.acc s.dproto := s.countWait_eq
    have h1 : s.truncCnt 1 = 1 := State.truncCnt_one h.cfgOk
    rcases hs with hs | hs <;> cases a
    · rw [State.decodeStep_waitIdle_idle hs hw, s.countWait_eq]
      exact next (.inr (.inl rfl)) hcnt (by simp)
    · rw [State.decodeStep_waitIdle_active hs hw, hstay, hs]
      exact next (.inl rfl) hcnt (by simp)
    · rw [State.decodeStep_waitMark_idle hs hw, hstay, hs]
      exact next (.inr (.inl rfl)) hcnt (by simp)
    · rw [State.decodeStep_waitMark_active hs hw, s.countWait_eq, h1]
      exact next (.inr (.inr rfl)) (two_le_maxLimit h.cfgOk) fun _ => rfl

end

theorem State.Inv.after_begun {s : State} (h : s.Inv) : s.begun.Inv where
  cfgOk := h.cfgOk
  syncLen := State.begun_syncLen h.syncLen
  line := h.line.after_begun
  frame := h.frame.of_sameResult ⟨rfl, rfl, rfl, rfl, rfl⟩
  counters := ⟨h.counters.cntBound, h.counters.cntRange, h.counters.wcntRange, h.counters.wcntInf, h.counters.ekRange⟩
  encoder := h.encoder
  decoder := ⟨h.decoder.noResult, h.decoder.bidx, h.decoder.accHigh, h.decoder.longSel, h.decoder.varSel⟩
  doneIdle := by simp

/-- A checked block right after reset, whatever its inputs. -/
theorem State.inv_resetOf {c : Config} {sync : List Level} (ho : c.Ok) (hl : sync.length = c.syncStages)
    (inp : List InPorts) (n : Nat) : ({ State.resetOf c sync with inputs := inp, now := n } : State).Inv :=
  .of_idle rfl ho hl (.of_released (by simp [State.resetOf]) rfl rfl)
    (.of_failed (o := .none) ⟨rfl, rfl, rfl, rfl, rfl⟩ (by decide)) (one_le_two.trans (two_le_maxLimit ho)) (BitVec.le_refl 0)
    fun _ => rfl

section
variable {s t : State}

/-- A TRANSMIT starts in cycle 0 of a waveform that begins with the ON level. -/
theorem State.Inv.startTransmit (h : s.Inv) (hd : s.done = false) (pr : Protocol) (p : Word) :
    (s.startTransmit pr p).Inv := by
  obtain ⟨rest, hwave⟩ : ∃ rest, s.cfg.wave pr p = s.cfg.txOnLevel :: rest := by
    have hhead := h.cfgOk.head?_wave pr p
    cases hw : s.cfg.wave pr p with
    | nil => simp [hw] at hhead
    | cons l rest => exact ⟨rest, by simpa [hw] using hhead⟩
  have htx : (s.startTransmit pr p).txWave = s.cfg.txOnLevel :: rest := hwave
  have hcounters : (s.startTransmit pr p).CounterInv :=
    ⟨h.counters.cntBound, by simp [Seq.counts], h.counters.wcntRange, h.counters.wcntInf, fun _ => by simp [htx]⟩
  exact {
    cfgOk := h.cfgOk
    syncLen := h.syncLen
    line := .of_driven rfl rfl
    frame := h.frame.of_sameResult ⟨rfl, rfl, rfl, rfl, rfl⟩
    counters := hcounters
    encoder := fun _ => by simp [State.waveAt, htx]
    decoder := .of_not_decoding (.inr rfl)
    doneIdle := by simp [hd] }

/-- A DECODE starts with its datapath and the result registers cleared. -/
theorem State.Inv.startDecode (h : s.Inv) (hs : s.st = .idle) (hd : s.done = false) (md : Bool) (T : Word) :
    (s.startDecode md T).Inv where
  cfgOk := h.cfgOk
  syncLen := h.syncLen
  line := h.line.of_unchanged (by simp [hs]) (by simp) rfl rfl rfl
  frame := .of_failed (o := .none) ⟨rfl, rfl, rfl, rfl, rfl⟩ (by decide)
  counters :=
    ⟨one_le_two.trans (two_le_maxLimit h.cfgOk), by simp [Seq.counts], BitVec.le_def.2 (Nat.zero_le _), by simp, by simp⟩
  encoder := by simp [State.EncoderInv]
  decoder := ⟨by simp, by simp [State.bidxOk], by simp, by simp, by simp⟩
  doneIdle := by simp [hd]

theorem State.Inv.complete (h : s.Inv) (hs : s.st = .idle) (op : Op) : (s.complete op).Inv :=
  .of_idle rfl h.cfgOk h.syncLen (h.line.of_unchanged (by simp [hs]) (by simp) rfl rfl rfl)
    (h.frame.of_sameResult ⟨rfl, rfl, rfl, rfl, rfl⟩) h.counters.cntBound h.counters.wcntRange h.counters.wcntInf

/-- Every acceptance action keeps the invariant. -/
theorem State.Inv.after_exec {i : Instr} (h : s.Inv) (hs : s.st = .idle) (hd : s.done = false)
    (he : exec i s = .next t) : t.Inv := by
  rcases exec_cases he with ⟨-, rfl⟩ | ⟨-, rfl⟩ | ⟨p, -, rfl⟩ | ⟨p, -, rfl⟩ | ⟨T, -, rfl⟩ | ⟨T, -, rfl⟩
  · exact h.complete hs _
  · exact h.complete hs _
  · exact h.startTransmit hd _ p
  · exact h.startTransmit hd _ p
  · exact h.startDecode hs hd _ T
  · exact h.startDecode hs hd _ T

/-- `encode_step` drives the level of the next cycle, whose index fits in `ek`, or releases the line. -/
theorem State.Inv.after_encodeStep (h : s.Inv) (hs : s.st = .eTx) : s.encodeStep.Inv := by
  have hline := h.line.after_encodeStep hs
  rcases Nat.eq_or_lt_of_le (h.counters.ekRange hs) with hlast | hlt
  · rw [State.encodeStep_of_last hlast] at hline ⊢
    exact .of_idle rfl h.cfgOk h.syncLen hline (h.frame.of_sameResult ⟨rfl, rfl, rfl, rfl, rfl⟩) h.counters.cntBound
      h.counters.wcntRange h.counters.wcntInf
  · have hek : (s.ek + 1).toNat = s.ek.toNat + 1 :=
      BitVec.toNat_add_of_lt (y := 1#32) (hlt.trans (h.cfgOk.length_wave_lt s.eproto s.epay))
    rw [State.encodeStep_of_lt hlt] at hline ⊢
    exact {
      cfgOk := h.cfgOk
      syncLen := h.syncLen
      line := hline
      frame := h.frame.of_sameResult ⟨rfl, rfl, rfl, rfl, rfl⟩
      counters := ⟨h.counters.cntBound, h.counters.cntRange, h.counters.wcntRange, h.counters.wcntInf,
        fun _ => (congrArg (· + 1) hek).trans_le hlt⟩
      encoder := fun _ => by
        show s.txWave[s.ek.toNat + 1] = s.txWave.getD (s.ek + 1).toNat (!s.cfg.txOnLevel)
        rw [hek, List.getD_eq_getElem _ _ hlt]
      decoder := .of_not_decoding (.inr hs)
      doneIdle := h.doneIdle }

theorem State.Inv.after_decodeStep (h : s.Inv) (hd : s.st.isDecoder = true) (a : Bool) : (s.decodeStep a).Inv := by
  rcases Seq.waits_or_counts hd with hs | hm
  · exact h.after_wait hs a
  · obtain ⟨L, hL⟩ := Option.ne_none_iff_exists'.1 hm
    exact h.after_measuring hL a

theorem State.Inv.after_step (h : s.Inv) (hstep : step s = .next t) : t.Inv := by
  rcases step_cases hstep with ⟨-, rfl⟩ | ⟨-, hi, -, he⟩ | ⟨-, -, -, rfl⟩ | ⟨-, hs, rfl⟩ | ⟨-, hd, rfl⟩
  · exact State.inv_resetOf h.cfgOk h.after_begun.syncLen _ _
  · exact h.after_begun.after_exec hi rfl he
  · exact h.after_begun
  · exact h.after_begun.after_encodeStep hs
  · exact h.after_begun.after_decodeStep hd _

end

/-- Settles O13: the reset values, and EX passes every check. -/
theorem resetStatesMeetTheInvariant : Obligations.ResetStatesMeetTheInvariant := by
  unfold Obligations.ResetStatesMeetTheInvariant
  exact ⟨fun c sync ho hl => State.inv_resetOf ho hl [] 0, State.inv_resetOf (by decide) rfl [] 0⟩

/-- Settles O17: every arm of an edge keeps the invariant. -/
theorem stepKeepsTheInvariant : Obligations.StepKeepsTheInvariant := by
  unfold Obligations.StepKeepsTheInvariant
  exact fun s t h hstep => h.after_step hstep

end Sys2Proof.Machine
end

section
/-! PROOFS. Families 41_timing_windows, 60_exceptions, 43_decoder and 70_reset_and_hazards: a run and its limit
(spec/41_timing_windows.md R124), failures (spec/60_exceptions.md R225), the sample stream (spec/10_state.md R23, R24), the
infinite wait (spec/43_decoder.md R167) and the bound on a frame (spec/70_reset_and_hazards.md R247). -/

namespace Sys2Proof.Machine

/-! ### Runs of samples (R124) -/

/-- A state that counts one level stays in itself over a whole run below its limit. -/
theorem State.run_replicate {s : State} {L : Bool} {k : Nat} (ho : s.cfg.Ok) (hL : s.st.counts = some L)
    (hk : s.cnt + k < s.limit) (hl : s.sync.length = s.cfg.syncStages) (hs : s.Sees (List.replicate k L)) :
    ∃ u, core.run k s = .next u ∧ u.st = s.st ∧ u.cnt = s.cnt + k := by
  cases k with
  | zero => exact ⟨s, run_zero s, rfl, rfl⟩
  | succ k =>
    have hp := State.passes_replicate (s := s.clearDone) hL rfl hk (State.limit_le_pow (s := s) ho)
    obtain ⟨sy, inp, nw, hrun, -⟩ := (hp.of_clearDone (by simp)).run (more := []) hl (by simpa using hs)
    rw [List.length_replicate] at hrun
    exact ⟨_, hrun, rfl, rfl⟩

/-- The sample that ends a run leaves the state, and is the first of the next run where the decode goes on. -/
theorem State.EndsRun.leaves {s t : State} (h : s.EndsRun t) (hd : s.st.isDecoder = true) : t.st ≠ s.st ∧ t.cnt = 1 := by
  cases h
  case error => exact ⟨(Seq.ne_idle_of_isDecoder hd).symm, rfl⟩
  all_goals exact ⟨by simp [State.ended, *], rfl⟩

/-- Settles O38: the first three clauses are the cases of an edge of a measuring state. -/
theorem measuringCountsTheRun : Obligations.MeasuringCountsTheRun := by
  unfold Obligations.MeasuringCountsTheRun
  intro s L ho hL hr
  have hd := Seq.isDecoder_of_counts hL
  refine ⟨step_of_count ho hr hL, fun ha hlim => ⟨_, step_of_decodeStep_eq hr hd ha rfl, ?_⟩,
    fun ha => ⟨_, step_of_decodeStep_eq hr hd ha rfl, ?_⟩, fun k hk hl hs => State.run_replicate ho hL hk hl hs⟩
  · rcases State.decodeStep_measuring_cases (s := s.begun) ho hL L with ⟨-, hlt, -⟩ | ⟨-, -, -, e⟩ | ⟨-, -, -, e⟩ | ⟨hne, -⟩
    · exact absurd hlim (Nat.not_le.2 hlt)
    · rw [e]; exact ⟨rfl, rfl, rfl⟩
    · rw [e]; exact ⟨rfl, rfl, rfl⟩
    · simp at hne
  · obtain ⟨hne, hcnt⟩ := (State.decodeStep_endsRun (s := s.begun) ho hL).leaves hd
    exact ⟨hne, fun _ => hcnt⟩

/-! ### Failures (R225) -/

/-- A decoder edge that completes without SUCCESS has one of the two failures' effects. -/
theorem State.decodeStep_of_failure {s : State} {a : Bool} (hd : s.st.isDecoder = true) (hdone : s.done = false)
    (h : (s.decodeStep a).done = true) (hns : (s.decodeStep a).resOutcome ≠ .success) :
    ((s.decodeStep a).resOutcome = .timeout ∧ s.decodeStep a = s.endedFailed .timeout) ∨
      ((s.decodeStep a).resOutcome = .protocolError ∧
        s.decodeStep a = ({ s with cnt := s.truncCnt 1 } : State).endedFailed .protocolError) := by
  rcases s.decodeStep_cases a hd with ⟨_, _, _, _, _, _, -, e⟩ | ⟨n, o, p, c, v, r, -, hfail, e⟩
  · rw [e, State.goOn_done, hdone] at h
    cases h
  · rw [e, State.finishAt_resOutcome] at hns
    rw [e, State.finishAt_resOutcome]
    rcases hfail hns with ⟨rfl, rfl⟩ | ⟨rfl, rfl⟩
    · exact .inl ⟨rfl, rfl⟩
    · exact .inr ⟨rfl, rfl⟩

/-- Settles O48: no port shows the decoder's registers, and the acceptance of a DECODE writes each of them. -/
theorem failuresChangeNothingElse : Obligations.FailuresChangeNothingElse := by
  unfold Obligations.FailuresChangeNothingElse
  intro s t h hr hd hdone hns
  obtain rfl : s.begun.decodeStep s.seen = t := by simpa [step_of_decode hr hd] using h
  refine ⟨State.decodeStep_of_failure (s := s.begun) hd rfl hdone hns, ?_⟩
  rintro u ac b n w m d f rfl
  exact ⟨fun rst => rfl, fun T => ⟨rfl, rfl⟩⟩

/-! ### The sample stream (R23, R24) -/

/-- The edges that are written down read the pending samples in order, whatever they do. -/
theorem run_seen {s : State} {n : Nat} (hl : s.sync.length = s.cfg.syncStages) (hn : n < s.inputs.length) :
    ∃ u, core.run n s = .next u ∧ s.pendingActs[n]? = some u.seen := by
  induction n generalizing s with
  | zero =>
    obtain ⟨p, ps, hp⟩ := List.exists_cons_of_length_pos hn
    exact ⟨s, run_zero s, by rw [State.pendingActs_eq_cons hp hl]; rfl⟩
  | succ n ih =>
    obtain ⟨p, ps, hp⟩ := List.exists_cons_of_length_pos (Nat.zero_lt_of_lt hn)
    obtain ⟨t, hstep⟩ := step_answers_next s
    obtain ⟨hcfg, hsync, hinputs⟩ := step_plumbing hstep
    have hacts : t.pendingActs = s.begun.pendingActs := by
      rw [State.pendingActs, State.pendingActs, hcfg, hsync, hinputs, State.begun_cfg]
    have hl' : t.sync.length = t.cfg.syncStages := by
      rw [hsync, hcfg]
      exact State.begun_syncLen hl
    obtain ⟨u, hrun, hu⟩ := ih hl' (by rw [hinputs, State.begun_inputs, hp]; simpa [hp] using hn)
    refine ⟨u, by rw [run_succ hstep, hrun], ?_⟩
    rw [State.pendingActs_eq_cons hp hl, ← hacts]
    exact hu

/-- Settles O49: the pending samples are the stages, oldest first, then `line_in`. -/
theorem sampleIsTheDelayedLine : Obligations.SampleIsTheDelayedLine := by
  unfold Obligations.SampleIsTheDelayedLine
  intro s n hl hn
  obtain ⟨u, hrun, hseen⟩ := run_seen hl hn
  refine ⟨u, hrun, ?_⟩
  have hlen : n < (s.sync.reverse ++ s.inputs.map (·.lineIn)).length := by simp; omega
  rw [State.pendingActs, List.getElem?_map, List.getElem?_take_of_lt hn, List.getElem?_eq_getElem hlen] at hseen
  rw [List.getD_eq_getElem _ _ hlen]
  exact (Option.some.inj hseen).symm

/-! ### The infinite wait (R167) -/

section
variable {s : State} (hinf : s.inf = true) (hd : s.done = false)
include hinf hd

theorem State.passes_infinite_actRun (hs : s.st = .dWaitIdle) (a : Nat) : s.Passes (actRun a) s := by
  induction a with
  | zero => exact .nil s
  | succ a ih =>
    refine .cons (by rw [hs]; rfl) ?_
    rw [State.clearDone_of_not_done hd, State.decodeStep_waitIdle_active hs (State.waitElapsed_of_inf hinf),
      State.countWait_of_inf hinf]
    exact ih

theorem State.passes_infinite_idleRun (hs : s.st = .dWaitMark) (b : Nat) : s.Passes (idleRun b) s := by
  induction b with
  | zero => exact .nil s
  | succ b ih =>
    refine .cons (by rw [hs]; rfl) ?_
    rw [State.clearDone_of_not_done hd, State.decodeStep_waitMark_idle hs (State.waitElapsed_of_inf hinf),
      State.countWait_of_inf hinf]
    exact ih

/-- A quiet line changes nothing but the wait state. -/
theorem State.passes_infinite_waitRuns (hs : s.st = .dWaitIdle) (a b : Nat) :
    s.Passes (waitRuns a b) { s with st := waitState b } := by
  have hact := State.passes_infinite_actRun hinf hd hs a
  cases b with
  | zero =>
    have hself : ({ s with st := waitState 0 } : State) = s := by
      show ({ s with st := .dWaitIdle } : State) = s
      rw [← hs]
    rw [hself]
    simpa [waitRuns, idleRun] using hact
  | succ b =>
    refine hact.append (.cons (by rw [hs]; rfl) ?_)
    rw [State.clearDone_of_not_done hd, State.decodeStep_waitIdle_idle hs (State.waitElapsed_of_inf hinf),
      State.countWait_of_inf hinf]
    exact State.passes_infinite_idleRun (s := { s with st := .dWaitMark }) hinf hd rfl b

end

/-- Settles O51: with `inf = 1` the wait states stay as they are over any quiet line. -/
theorem infiniteWaitOutlastsAnyQuietLine : Obligations.InfiniteWaitOutlastsAnyQuietLine := by
  unfold Obligations.InfiniteWaitOutlastsAnyQuietLine
  intro s t arg a b hl he hsees
  obtain rfl : s.startDecode true arg = t := by cases he; rfl
  rcases Nat.eq_zero_or_pos (a + b) with hz | hpos
  · rw [hz]
    exact ⟨_, run_zero _, fun _ => rfl, fun hb => by omega, rfl, rfl⟩
  · have hne : waitRuns a b ≠ [] := List.ne_nil_of_length_pos (by rwa [length_waitRuns])
    have hp := State.passes_infinite_waitRuns (s := (s.startDecode true arg).clearDone) rfl rfl rfl a b
    obtain ⟨sy, inp, nw, hrun, -⟩ := (hp.of_clearDone hne).run (more := []) hl (by simpa using hsees)
    rw [length_waitRuns] at hrun
    exact ⟨_, hrun, fun hb => if_pos hb, fun hb => if_neg (by omega), rfl, rfl⟩

/-! ### The bound on a frame (R247) -/

/-- How many runs a frame can still have, the one being measured among them: at most a header mark and space, 32 marks and
spaces, and a trailing mark (spec/43_decoder.md R176, R183). -/
def State.runsLeft (s : State) : Nat :=
  match s.st with
  | .dHdrMark => 67
  | .dLfHdrSpace => 66
  | .dLfMark => 65 - 2 * s.bidx.toNat
  | .dLfSpace => 64 - 2 * s.bidx.toNat
  | .dLfTrail => 1
  | .dLfRptTrail => 1
  | .dVfHdrSpace => 40
  | .dVfMark => 39 - 2 * s.bidx.toNat
  | .dVfSpace => 40 - 2 * s.bidx.toNat
  | .idle => 0
  | .dWaitIdle => 0
  | .dWaitMark => 0
  | .eTx => 0

theorem State.runsLeft_le (s : State) : s.runsLeft ≤ 67 := by
  unfold State.runsLeft
  split <;> omega

/-- The run that a state measures is one of those left. -/
theorem State.runsLeft_pos {s : State} (hm : s.st.counts ≠ none) (hb : s.bidxOk) : 1 ≤ s.runsLeft := by
  have h32 := s.bidx.isLt
  unfold State.bidxOk at hb
  unfold State.runsLeft
  cases hs : s.st <;> rw [hs] at hm <;> simp only [hs] at hb ⊢
  case idle | dWaitIdle | dWaitMark | eTx => exact absurd rfl hm
  all_goals omega

/-- The sample that ends a run completes the decode, or starts a measuring state with fewer runs left. -/
theorem State.EndsRun.runsLeft_lt {s t : State} (h : s.EndsRun t) (hb : s.bidxOk) :
    t.st = .idle ∨ (t.st.counts ≠ none ∧ t.runsLeft + 1 ≤ s.runsLeft) := by
  have h32 := s.bidx.isLt
  unfold State.bidxOk at hb
  cases h with
  | lfRptTrail | lfTrail | vfMark_lastBit | error => exact .inl rfl
  | lfSpace_bit x hs hw hi =>
    have hsucc : (s.bidx + 1).toNat = s.bidx.toNat + 1 := by bv_omega
    exact .inr ⟨by simp [Seq.counts], by simp only [State.runsLeft, hs, State.goOn_st, State.goOn_bidx]; omega⟩
  | vfMark_bit x hs hw hi =>
    simp only [hs] at hb
    have hsucc : (s.bidx + 1).toNat = s.bidx.toNat + 1 := by bv_omega
    have hlt : s.bidx.toNat < 19 := by bv_omega
    exact .inr ⟨by simp [Seq.counts], by simp only [State.runsLeft, hs, State.goOn_st, State.goOn_bidx]; omega⟩
  | hdrMark_long hs | hdrMark_variable hs | lfHdrSpace_data hs | lfHdrSpace_rpt hs | vfHdrSpace hs =>
    exact .inr ⟨by simp [Seq.counts], by simp [State.runsLeft, hs]⟩
  | lfMark hs | lfSpace_lastBit x hs | vfSpace hs =>
    simp only [hs] at hb
    exact .inr ⟨by simp [Seq.counts], by simp only [State.runsLeft, hs, State.goOn_st, State.goOn_bidx]; omega⟩

/-- The edges that a frame can still take: every run left takes at most the largest limit. -/
def State.edgesLeft (s : State) : Nat := s.runsLeft * s.cfg.maxLimit - s.cnt

/-- The run being measured is shorter than the largest limit. -/
theorem State.Inv.cnt_lt_of_runsLeft {s : State} (h : s.Inv) (hm : s.st.counts ≠ none) {r : Nat}
    (hr : r + 1 ≤ s.runsLeft) : r * s.cfg.maxLimit + s.cnt < s.runsLeft * s.cfg.maxLimit := by
  obtain ⟨-, hlt⟩ := h.counters.cntRange hm
  have hmax := s.limit_le
  have hmul := Nat.mul_le_mul_right s.cfg.maxLimit hr
  rw [Nat.succ_mul] at hmul
  omega

/-- Every edge of a measuring state completes the decode or uses up one of the edges left. -/
theorem State.Inv.edgesLeft_lt {s : State} (h : s.Inv) (hm : s.st.counts ≠ none) (a : Bool) :
    (s.decodeStep a).st = .idle ∨ ((s.decodeStep a).st.counts ≠ none ∧ (s.decodeStep a).edgesLeft < s.edgesLeft) := by
  obtain ⟨L, hL⟩ := Option.ne_none_iff_exists'.1 hm
  have hnow := h.cnt_lt_of_runsLeft hm (r := 0) (State.runsLeft_pos hm h.decoder.bidx)
  rcases State.decodeStep_measuring_cases h.cfgOk hL a with ⟨-, -, e⟩ | ⟨-, -, -, e⟩ | ⟨-, -, -, e⟩ | ⟨-, he⟩
  · rw [e]
    refine .inr ⟨hm, ?_⟩
    show s.runsLeft * s.cfg.maxLimit - (s.cnt + 1) < s.runsLeft * s.cfg.maxLimit - s.cnt
    omega
  · exact .inl (by rw [e]; rfl)
  · exact .inl (by rw [e]; rfl)
  · refine (he.runsLeft_lt h.decoder.bidx).imp_right fun ⟨hm', hr⟩ => ⟨hm', ?_⟩
    have hless := h.cnt_lt_of_runsLeft hm hr
    rw [State.edgesLeft, State.edgesLeft, State.decodeStep_cfg]
    omega

theorem State.DecodeEnds.after_step {s u t : State} {n : Nat} (h : u.DecodeEnds n t) (hd : s.st.isDecoder = true)
    (hstep : step s = .next u) : s.DecodeEnds (n + 1) t where
  before := fun k hk => by
    cases k with
    | zero => exact ⟨s, run_zero s, hd⟩
    | succ k =>
      rw [run_succ hstep]
      exact h.before k (by omega)
  last := by rw [run_succ hstep]; exact h.last
  idle := h.idle
  done := h.done
  doneOp := h.doneOp

/-- A measuring decode ends before its edges left are used up, by induction on them. -/
theorem State.Inv.decodeEnds_of_edgesLeft {s : State} {n : Nat} (h : s.Inv) (hm : s.st.counts ≠ none)
    (hn : s.edgesLeft ≤ n) (hr : s.NoReset n) : ∃ k ≤ n, ∃ t, s.DecodeEnds k t := by
  induction n generalizing s with
  | zero =>
    have hnow := h.cnt_lt_of_runsLeft hm (r := 0) (State.runsLeft_pos hm h.decoder.bidx)
    unfold State.edgesLeft at hn
    omega
  | succ n ih =>
    obtain ⟨hrst, hrest⟩ := hr.coming_and_rest
    obtain ⟨L, hL⟩ := Option.ne_none_iff_exists'.1 hm
    have hd := Seq.isDecoder_of_counts hL
    have hstep := step_of_decode hrst hd
    rcases h.after_begun.edgesLeft_lt hm s.seen with hidle | ⟨hm', hless⟩
    · rcases s.begun.decodeStep_completes_or_goes_on s.seen hd with ⟨hdone, -, hop⟩ | ⟨-, hdec, -⟩
      · have hend : (s.begun.decodeStep s.seen).DecodeEnds 0 (s.begun.decodeStep s.seen) :=
          ⟨fun k hk => absurd hk k.not_lt_zero, run_zero _, hidle, hdone, hop⟩
        exact ⟨1, by omega, _, hend.after_step hd hstep⟩
      · exact absurd hidle (Seq.ne_idle_of_isDecoder hdec)
    · have hless' : (s.begun.decodeStep s.seen).edgesLeft < s.edgesLeft := hless
      have hrest' : (s.begun.decodeStep s.seen).NoReset n := by
        rwa [State.NoReset, State.decodeStep_inputs]
      obtain ⟨k, hk, t, hend⟩ := ih (h.after_step hstep) hm' (by omega) hrest'
      exact ⟨k + 1, by omega, t, hend.after_step hd hstep⟩

/-- Settles O60: from the header mark on a frame has at most 67 runs. -/
theorem everyFrameEndsWithinABound : Obligations.EveryFrameEndsWithinABound := by
  unfold Obligations.EveryFrameEndsWithinABound
  intro s h hm hr
  refine h.decodeEnds_of_edgesLeft hm ?_ hr
  exact (Nat.sub_le _ _).trans (Nat.mul_le_mul_right _ s.runsLeft_le)

end Sys2Proof.Machine
end

section
/-! PROOFS. Family 43_decoder: a LongFrame or a repeat code has the runs of one (spec/43_decoder.md R176). That its runs give
the frame is `inRun_passes_longFrame` and its kin; here a decode that succeeds is read backwards, run by run: each run ends below
its limit and in a window that goes on, because every other end is a failure. -/

namespace Sys2Proof.Machine

/-! ### Decoders that succeed -/

/-- `u` is at the end of a decode with SUCCESS. -/
structure State.Succeeded (u : State) : Prop where
  idle    : u.st = .idle
  success : u.resOutcome = .success

/-- A completed decoder reads no further sample. -/
theorem State.Passes.of_idle {s u : State} {acts : List Bool} (h : s.Passes acts u) (hs : s.st = .idle) :
    acts = [] ∧ s = u := by
  cases acts with
  | nil => exact ⟨rfl, h.last⟩
  | cons a as =>
    have hd := h.of_cons.1
    rw [hs] at hd
    cases hd

/-- A failed decoder has not succeeded. -/
theorem State.Succeeded.not_failed {s u : State} {acts : List Bool} {o : ResOutcome} (hu : u.Succeeded)
    (ho : o ≠ .success) : ¬ (s.endedFailed o).Passes acts u := fun h =>
  ho (by rw [← hu.success, ← (h.of_idle rfl).2]; rfl)

/-- The protocol of the frame that a state after the header stands for, and whether it is a repeat code. -/
def Seq.frame : Seq → Option (Protocol × Bool)
  | .dLfMark | .dLfSpace | .dLfTrail => some (.longFrame, false)
  | .dLfRptTrail => some (.longFrame, true)
  | .dVfHdrSpace | .dVfSpace | .dVfMark => some (.variableFrame, false)
  | .idle | .dWaitIdle | .dWaitMark | .dHdrMark | .dLfHdrSpace | .eTx => none

/-- `t` stands for the frame `f` too, or is completed, with `f` if with SUCCESS. -/
def State.KeepsFrame (t : State) (f : Protocol × Bool) : Prop :=
  t.st.frame = some f ∨ (t.st = .idle ∧ (t.resOutcome = .success → (t.resProtocol, t.resIsRepeat) = f))

theorem State.keepsFrame_of_failed (s : State) {o : ResOutcome} (ho : o ≠ .success) (f : Protocol × Bool) :
    (s.endedFailed o).KeepsFrame f := .inr ⟨rfl, fun h => absurd h ho⟩

theorem State.EndsRun.keepsFrame {s t : State} {f : Protocol × Bool} (h : s.EndsRun t) (hf : s.st.frame = some f) :
    t.KeepsFrame f := by
  cases h with
  | error => exact State.keepsFrame_of_failed _ (by decide) f
  | hdrMark_long hs | hdrMark_variable hs | lfHdrSpace_data hs | lfHdrSpace_rpt hs =>
    rw [hs] at hf
    cases hf
  | lfMark hs | lfSpace_bit x hs | lfSpace_lastBit x hs | vfHdrSpace hs | vfMark_bit x hs | vfSpace hs =>
    rw [hs] at hf
    exact .inl hf
  | lfRptTrail hs | lfTrail hs | vfMark_lastBit x hs =>
    rw [hs] at hf
    exact .inr ⟨rfl, fun _ => Option.some.inj hf⟩

theorem State.decodeStep_keepsFrame {s : State} {f : Protocol × Bool} (ho : s.cfg.Ok) (hf : s.st.frame = some f)
    (a : Bool) : (s.decodeStep a).KeepsFrame f := by
  obtain ⟨L, hL⟩ : ∃ L, s.st.counts = some L := by
    cases hs : s.st <;> simp_all [Seq.frame, Seq.counts]
  rcases State.decodeStep_measuring_cases ho hL a with ⟨-, -, e⟩ | ⟨-, -, ⟨hs, -⟩, e⟩ | ⟨-, -, -, e⟩ | ⟨-, he⟩
  · rw [e]
    exact .inl hf
  · rw [e]
    rw [hs] at hf
    exact .inr ⟨rfl, fun _ => Option.some.inj hf⟩
  · rw [e]
    exact State.keepsFrame_of_failed _ (by decide) f
  · exact he.keepsFrame hf

/-- A decode that is past its header ends, if with SUCCESS, with the frame its state stands for. -/
theorem State.Passes.frame {s u : State} {acts : List Bool} {f : Protocol × Bool} (h : s.Passes acts u) (ho : s.cfg.Ok)
    (hf : s.st.frame = some f) (hu : u.Succeeded) : (u.resProtocol, u.resIsRepeat) = f := by
  induction acts generalizing s with
  | nil =>
    obtain rfl : s = u := h.last
    rw [hu.idle] at hf
    cases hf
  | cons a as ih =>
    obtain ⟨-, hp⟩ := h.of_cons
    rcases State.decodeStep_keepsFrame (s := s.clearDone) ho hf a with hf' | ⟨hidle, hres⟩
    · exact ih hp (by rw [State.decodeStep_cfg]; exact ho) hf'
    · obtain ⟨-, rfl⟩ := hp.of_idle hidle
      exact hres hu.success

/-! ### Run by run -/

theorem BitOf.eq_not_holds {w w' : Window} {n : Nat} {b : Bool} (h : BitOf w w' n b) : b = !w.holds n := by
  rcases h with ⟨rfl, h⟩ | ⟨rfl, h, -⟩ <;> simp [h]

theorem BitOf.holds {w w' : Window} {n : Nat} {b : Bool} (h : BitOf w w' n b) :
    w.holds n = true ∨ w'.holds n = true := by
  rcases h with ⟨-, h⟩ | ⟨-, -, h⟩
  · exact .inl h
  · exact .inr h

section
variable {s u : State} {q : Seq} {L : Bool} {d : Protocol} {i : Nat} {v : Word} {acts : List Bool}
  (ho : s.cfg.Ok) (hd : s.done = false) (hu : u.Succeeded)
include ho hd hu

/-- The run of a decode that succeeds ends below `SYM_LIMIT`; `n` is its length, and its first sample is counted already. -/
theorem State.inRun_ends (hL : q.counts = some L) (hq : q ≠ .dVfSpace) (h : (s.inRun q 1 d i v).Passes acts u) :
    ∃ n rest, L :: acts = List.replicate n L ++ (!L) :: rest ∧ 1 ≤ n ∧ n < s.cfg.symLimit ∧
      ((s.inRun q n d i v).decodeStep (!L)).Passes rest u := by
  have hlim : (s.inRun q 1 d i v).limit = s.cfg.symLimit := State.limit_of_ne (s := s.inRun q 1 d i v) hq
  have htwo := State.two_le_limit (s := s.inRun q 1 d i v) ho
  rcases h.run_cases (by rw [hu.idle]; rfl) ho hL hd htwo with ⟨k, rest, rfl, hk, hp⟩ | ⟨k, rest, -, hk, hp⟩
  · rw [hlim] at hk
    rw [show (s.inRun q 1 d i v).cnt + k = k + 1 from Nat.add_comm ..] at hk hp
    exact ⟨k + 1, rest, rfl, Nat.succ_pos k, hk, hp⟩
  · have hend := State.decodeStep_limit (s := s.inRun q (1 + k) d i v) hL hk.ge fun hb => hq hb.1
    exact absurd (hend ▸ hp) (hu.not_failed (by decide))

/-- A LongFrame's header mark is in its window. -/
theorem State.inRun_hdrMark_ends (hlong : u.resProtocol = .longFrame) (h : (s.inRun .dHdrMark 1 d i v).Passes acts u) :
    ∃ hm rest, true :: acts = actRun hm ++ false :: rest ∧ s.cfg.wLfHdrMark.holds hm = true ∧
      (s.inRun .dLfHdrSpace 1 .longFrame i v).Passes rest u := by
  obtain ⟨n, rest, hacts, -, -, hp⟩ := State.inRun_ends ho hd hu rfl (by decide) h
  rcases holds_cases s.cfg.wLfHdrMark s.cfg.wVfHdrMark n with hw | ⟨hw, hw'⟩ | ⟨hw, hw'⟩
  · rw [Bool.not_true, State.decodeStep_hdrMark_long (s := s.inRun .dHdrMark n d i v) ho rfl hw] at hp
    exact ⟨n, rest, hacts, hw, hp⟩
  · rw [Bool.not_true, State.decodeStep_hdrMark_variable (s := s.inRun .dHdrMark n d i v) ho rfl hw hw'] at hp
    have hframe := hp.frame (f := (.variableFrame, false)) ho rfl hu
    simp [hlong] at hframe
  · rw [Bool.not_true, State.decodeStep_hdrMark_error (s := s.inRun .dHdrMark n d i v) ho rfl hw hw'] at hp
    exact absurd hp (hu.not_failed (by decide))

/-- Its header space is in the data window or in the repeat window. -/
theorem State.inRun_lfHdrSpace_ends (h : (s.inRun .dLfHdrSpace 1 d i v).Passes acts u) :
    ∃ hs rest, false :: acts = idleRun hs ++ true :: rest ∧
      ((s.cfg.wLfHdrSpace.holds hs = true ∧ (s.inRun .dLfMark 1 d 0 v).Passes rest u) ∨
        (s.cfg.wLfHdrSpace.holds hs = false ∧ s.cfg.wLfRptSpace.holds hs = true ∧
          (s.inRun .dLfRptTrail 1 d i v).Passes rest u)) := by
  obtain ⟨n, rest, hacts, -, -, hp⟩ := State.inRun_ends ho hd hu rfl (by decide) h
  refine ⟨n, rest, hacts, ?_⟩
  rcases holds_cases s.cfg.wLfHdrSpace s.cfg.wLfRptSpace n with hw | ⟨hw, hw'⟩ | ⟨hw, hw'⟩
  · rw [Bool.not_false, State.decodeStep_lfHdrSpace_data (s := s.inRun .dLfHdrSpace n d i v) ho rfl hw] at hp
    exact .inl ⟨hw, hp⟩
  · rw [Bool.not_false, State.decodeStep_lfHdrSpace_rpt (s := s.inRun .dLfHdrSpace n d i v) ho rfl hw hw'] at hp
    exact .inr ⟨hw, hw', hp⟩
  · rw [Bool.not_false, State.decodeStep_lfHdrSpace_error (s := s.inRun .dLfHdrSpace n d i v) ho rfl hw hw'] at hp
    exact absurd hp (hu.not_failed (by decide))

theorem State.inRun_lfRptTrail_ends (h : (s.inRun .dLfRptTrail 1 d i v).Passes acts u) :
    ∃ tl, true :: acts = actRun tl ++ [false] ∧ 1 ≤ tl ∧ tl < s.cfg.symLimit := by
  obtain ⟨n, rest, hacts, h1, hn, hp⟩ := State.inRun_ends ho hd hu rfl (by decide) h
  rw [Bool.not_true, State.decodeStep_lfRptTrail_ended (s := s.inRun .dLfRptTrail n d i v) ho rfl] at hp
  obtain ⟨rfl, -⟩ := hp.of_idle rfl
  exact ⟨n, hacts, h1, hn⟩

/-- The trailing mark ends the frame with the bits it has. -/
theorem State.inRun_lfTrail_ends (h : (s.inRun .dLfTrail 1 d i v).Passes acts u) :
    ∃ tl, true :: acts = actRun tl ++ [false] ∧ 1 ≤ tl ∧ tl < s.cfg.symLimit ∧ u.resPayload = v := by
  obtain ⟨n, rest, hacts, h1, hn, hp⟩ := State.inRun_ends ho hd hu rfl (by decide) h
  rw [Bool.not_true, State.decodeStep_lfTrail_ended (s := s.inRun .dLfTrail n d i v) ho rfl] at hp
  obtain ⟨rfl, rfl⟩ := hp.of_idle rfl
  exact ⟨n, hacts, h1, hn, rfl⟩

/-- A bit's mark is bounded, its space in one of the bit windows, and the next run is the next bit's or the trailing mark. -/
theorem State.inRun_lfBit_ends (hi : i ≤ 31) (h : (s.inRun .dLfMark 1 d i v).Passes acts u) :
    ∃ m g rest, true :: acts = actRun m ++ (idleRun g ++ true :: rest) ∧ 1 ≤ m ∧ m < s.cfg.symLimit ∧
      (s.cfg.wLfSpace0.holds g = true ∨ s.cfg.wLfSpace1.holds g = true) ∧
      ∃ v', (∀ j < 32, v'.getLsbD j = if j = i then !s.cfg.wLfSpace0.holds g else v.getLsbD j) ∧
        (i = 31 → (s.inRun .dLfTrail 1 d 31 v').Passes rest u) ∧
        (i ≠ 31 → (s.inRun .dLfMark 1 d (i + 1) v').Passes rest u) := by
  obtain ⟨m, rest, hacts, h1, hm, hp⟩ := State.inRun_ends ho hd hu rfl (by decide) h
  rw [Bool.not_true, State.decodeStep_lfMark_ended (s := s.inRun .dLfMark m d i v) ho rfl] at hp
  obtain ⟨g, rest', hrest, -, -, hp'⟩ := State.inRun_ends (q := .dLfSpace) (d := d) (i := i) (v := v) ho hd hu rfl
    (by decide) hp
  refine ⟨m, g, rest', by rw [hacts, Bool.not_true, hrest]; rfl, h1, hm, ?_⟩
  rcases bitOf_cases s.cfg.wLfSpace0 s.cfg.wLfSpace1 g with ⟨b, hb⟩ | ⟨hw, hw'⟩
  · refine ⟨hb.holds, writeBit v (BitVec.ofNat 5 i) b, fun j hj => ?_, fun hlast => ?_, fun hne => ?_⟩
    · rw [getLsbD_writeBit _ _ _ hj, toNat_bidx (by omega), hb.eq_not_holds]
    · subst hlast
      rw [Bool.not_false, State.decodeStep_lfSpace_lastBit (s := s.inRun .dLfSpace g d 31 v) ho rfl hb rfl] at hp'
      exact hp'
    · have hbidx : BitVec.ofNat 5 i ≠ BitVec.ofNat 5 31 := ofNat_bidx_ne (by omega) (by omega) hne
      rw [Bool.not_false, State.decodeStep_lfSpace_bit (s := s.inRun .dLfSpace g d i v) ho rfl hb hbidx] at hp'
      rw [State.inRun, ← bidx_succ]
      exact hp'
  · rw [Bool.not_false, State.decodeStep_lfSpace_error (s := s.inRun .dLfSpace g d i v) ho rfl hw hw'] at hp'
    exact absurd hp' (hu.not_failed (by decide))

end

/-- The run lengths `f` with `x` before them. -/
def consRun (x : Nat) (f : Nat → Nat) : Nat → Nat
  | 0 => x
  | i + 1 => f i

section
variable {s u : State} {d : Protocol} (ho : s.cfg.Ok) (hd : s.done = false) (hu : u.Succeeded)
include ho hd hu

/-- From bit `i` on, `n + 1` bits and the trailing mark, by induction on `n`; the bits before `i` stay. -/
theorem State.inRun_lfBits_end {n i : Nat} {v : Word} {acts : List Bool} (hi : i + n = 31)
    (h : (s.inRun .dLfMark 1 d i v).Passes acts u) :
    ∃ (m g : Nat → Nat) (tl : Nat), true :: acts = lfBitRuns (n + 1) m g ++ (actRun tl ++ [false]) ∧
      (∀ j < n + 1, 1 ≤ m j ∧ m j < s.cfg.symLimit ∧
        (s.cfg.wLfSpace0.holds (g j) = true ∨ s.cfg.wLfSpace1.holds (g j) = true) ∧
        u.resPayload.getLsbD (i + j) = !s.cfg.wLfSpace0.holds (g j)) ∧
      (∀ j < i, u.resPayload.getLsbD j = v.getLsbD j) ∧ 1 ≤ tl ∧ tl < s.cfg.symLimit := by
  induction n generalizing i v acts with
  | zero =>
    obtain ⟨m, g, rest, hacts, h1, hm, hg, v', hv', hlast, -⟩ := State.inRun_lfBit_ends ho hd hu (by omega) h
    obtain ⟨tl, hrest, htl, htl', rfl⟩ := State.inRun_lfTrail_ends ho hd hu (hlast hi)
    refine ⟨fun _ => m, fun _ => g, tl, ?_, fun j hj => ?_, fun j hj => ?_, htl, htl'⟩
    · rw [hacts, hrest]
      simp [lfBitRuns]
    · obtain rfl : j = 0 := by omega
      exact ⟨h1, hm, hg, by rw [Nat.add_zero, hv' i (by omega), if_pos rfl]⟩
    · rw [hv' j (by omega), if_neg (by omega)]
  | succ n ih =>
    obtain ⟨m, g, rest, hacts, h1, hm, hg, v', hv', -, hnext⟩ := State.inRun_lfBit_ends ho hd hu (by omega) h
    obtain ⟨ms, gs, tl, hrest, hbits, hlow, htl, htl'⟩ := ih (by omega) (hnext (by omega))
    refine ⟨consRun m ms, consRun g gs, tl, ?_, fun j hj => ?_, fun j hj => ?_, htl, htl'⟩
    · rw [lfBitRuns_head, hacts, hrest]
      rfl
    · cases j with
      | zero => exact ⟨h1, hm, hg, by rw [Nat.add_zero, hlow i (by omega), hv' i (by omega), if_pos rfl]; rfl⟩
      | succ j =>
        rw [show i + (j + 1) = i + 1 + j by omega]
        exact hbits j (by omega)
    · rw [hlow j (by omega), hv' j (by omega), if_neg (by omega)]

end

/-! ### The obligations -/

/-- A decode of the machine that succeeds is one of the decoder alone, from its header mark's first sample on. -/
theorem State.DecodeEnds.passes_of_success {s t : State} {acts : List Bool} {p : Protocol} {c : BitVec 6} {v : Word}
    {r : Bool} (h : s.DecodeEnds acts.length t) (hinv : s.Inv) (hs : s.st = .dHdrMark) (hc : s.cnt = 1)
    (hsees : s.Sees acts) (hres : t.Result .success p c v r) :
    ∃ u : State, (s.inRun .dHdrMark 1 s.dproto 0 0).Passes acts u ∧ u.Succeeded ∧ u.Result .success p c v r := by
  obtain ⟨u, sy, inp, nw, hp, rfl⟩ := h.passes hinv.syncLen hsees
  rw [hinv.inRun_hdrMark hs hc]
  exact ⟨u, hp, ⟨h.idle, hres.1⟩, hres⟩

/-- Settles O53: forwards the runs are fed to the decoder, backwards they are read off run by run. -/
theorem longFrameDataIffItsRuns : Obligations.LongFrameDataIffItsRuns := by
  unfold Obligations.LongFrameDataIffItsRuns
  intro s acts v hinv hs hc hsees
  have ho := hinv.cfgOk
  have hd : s.done = false := hinv.done_eq_false (by simp [hs])
  constructor
  · rintro ⟨t, hends, hres⟩
    obtain ⟨u, hp, hu, -, hlong, -, rfl, hrep⟩ := hends.passes_of_success hinv hs hc hsees hres
    obtain ⟨hm, rest, hacts, hhm, hp⟩ := State.inRun_hdrMark_ends ho hd hu hlong hp
    obtain ⟨hsp, rest', hrest, ⟨hhs, hp⟩ | ⟨-, -, hp⟩⟩ := State.inRun_lfHdrSpace_ends ho hd hu hp
    · obtain ⟨m, g, tl, hrest', hbits, -, htl, htl'⟩ := State.inRun_lfBits_end (n := 31) ho hd hu (Nat.zero_add 31) hp
      refine ⟨hm, hsp, tl, m, g, ?_, hhm, hhs, fun i hi => ?_, htl, htl'⟩
      · rw [hacts, hrest, hrest']
        simp only [List.append_assoc]
      · simpa using hbits i hi
    · have hframe := hp.frame (f := (.longFrame, true)) ho rfl hu
      simp [hrep] at hframe
  · rintro ⟨hm, hsp, tl, m, g, hacts, hhm, hhs, hbits, htl, htl'⟩
    have hp := State.inRun_passes_longFrame (d := s.dproto) (v := v) ho hd hhm hhs
      (fun i hi => ⟨(hbits i hi).1, (hbits i hi).2.1⟩)
      (fun i hi => (hbits i hi).2.2.2 ▸ BitOf.of_holds (hbits i hi).2.2.1) htl htl'
    simp only [List.append_assoc] at hacts
    rw [hinv.inRun_hdrMark hs hc, ← hacts, List.tail_cons] at hp
    exact hp.decodeEnds_result hinv.syncLen hsees

/-- Settles O54, in the same way. -/
theorem repeatCodeIffItsRuns : Obligations.RepeatCodeIffItsRuns := by
  unfold Obligations.RepeatCodeIffItsRuns
  intro s acts hinv hs hc hsees
  have ho := hinv.cfgOk
  have hd : s.done = false := hinv.done_eq_false (by simp [hs])
  constructor
  · rintro ⟨t, hends, hres⟩
    obtain ⟨u, hp, hu, -, hlong, -, -, hrep⟩ := hends.passes_of_success hinv hs hc hsees hres
    obtain ⟨hm, rest, hacts, hhm, hp⟩ := State.inRun_hdrMark_ends ho hd hu hlong hp
    obtain ⟨rs, rest', hrest, ⟨-, hp⟩ | ⟨hdata, hrpt, hp⟩⟩ := State.inRun_lfHdrSpace_ends ho hd hu hp
    · have hframe := hp.frame (f := (.longFrame, false)) ho rfl hu
      simp [hrep] at hframe
    · obtain ⟨tl, hrest', htl, htl'⟩ := State.inRun_lfRptTrail_ends ho hd hu hp
      refine ⟨hm, rs, tl, ?_, hhm, hrpt, hdata, htl, htl'⟩
      rw [hacts, hrest, hrest']
      simp only [List.append_assoc]
  · rintro ⟨hm, rs, tl, hacts, hhm, hrpt, -, htl, htl'⟩
    have hrs1 := (ho.holds_range (by simp [Config.windows]) hrpt).1
    have hp : (s.inRun .dHdrMark 1 s.dproto 0 0).Passes
        (actRun hm ++ (idleRun rs ++ (actRun tl ++ [false]))).tail _ :=
      State.inRun_passes_hdrMark_long ho hd hhm (head?_replicate_append hrs1 _) <|
        State.inRun_passes_lfHdrSpace_rpt ho hd hrpt (head?_replicate_append htl _) <|
          State.inRun_passes_lfRptTrail ho hd htl htl'
    simp only [List.append_assoc] at hacts
    rw [hinv.inRun_hdrMark hs hc, ← hacts, List.tail_cons] at hp
    exact hp.decodeEnds_result hinv.syncLen hsees

end Sys2Proof.Machine
end
